-- ==== Sys2Proof/Word.lean ====
section
/-! DEFINITION. The word types of the CORE (00_scope.md R5, R7): every value is an unsigned integer of a stated width. -/

namespace Sys2Proof

/-- A RAM cell, a V register or a timer: 8 bits (R5, R7). -/
abbrev Byte := BitVec 8

/-- A RAM byte address as PC, I and the stack entries hold it: 12 bits (R5, R7). -/
abbrev Addr := BitVec 12

/-- An instruction word: 16 bits (30_encoding.md R90). -/
abbrev Word := BitVec 16

/-- The index of a general register, V0 to VF (10_state.md R20). -/
abbrev Reg := Fin 16

/-- The index of a key, 0x0 to 0xF (10_state.md R29). -/
abbrev Key := Fin 16

end Sys2Proof
end

