-- ==== Sys2Proof/Config.lean ====
section
/-! DEFINITION. The sizes the spec fixes for this hardware (00_scope.md R5) and the one value it leaves free (R126). -/

namespace Sys2Proof.Config

/-- RAM has 4096 cells, addresses 0x000 to 0xFFF (R5, 20_memory.md R60). -/
def ramSize : Nat := 4096

/-- Programs are loaded at 0x200, which is also PC after reset (R5, R62). -/
def programStart : Nat := 0x200

/-- The largest ROM image, 4096 - 512 bytes (R5, 46_host_interface.md R242). -/
def maxRomSize : Nat := 3584

/-- `speed` after reset (10_state.md R35). -/
def defaultSpeed : Nat := 10

/-- The least and the greatest `speed` a host may set (R35, 46_host_interface.md R246). -/
def minSpeed : Nat := 1
def maxSpeed : Nat := 100

/-- FREE VALUE (log 2). The byte that the k-th draw of the random source gives (40_fetch_step_cycle.md R126: "`rnd` is
a free input of the step"). It has no body: nothing can be proved of its values. -/
opaque randomByte : Nat → Byte

end Sys2Proof.Config
end

