-- ==== Sys2Proof/Syntax.lean ====
section
/-! DEFINITION. The 34 instructions of 30_encoding.md R95, one constructor a row of spec/opcode_table.json, in the table's
order. Register operands are register indexes; immediates are unsigned integers (R93: "used as an unsigned integer"),
whose ranges WellFormed checks. -/

namespace Sys2Proof

/-- An instruction of the CORE. -/
inductive Instr where
  /-- 00E0, CLS (R210) -/
  | cls
  /-- 00EE, RET (R140) -/
  | ret
  /-- 1NNN, JP nnn (R141) -/
  | jp (nnn : Nat)
  /-- 2NNN, CALL nnn (R142) -/
  | call (nnn : Nat)
  /-- 3XNN, SE Vx,nn (R143) -/
  | seImm (x : Reg) (nn : Nat)
  /-- 4XNN, SNE Vx,nn (R144) -/
  | sneImm (x : Reg) (nn : Nat)
  /-- 5XY0, SE Vx,Vy (R145) -/
  | seReg (x y : Reg)
  /-- 6XNN, LD Vx,nn (R161) -/
  | ldImm (x : Reg) (nn : Nat)
  /-- 7XNN, ADD Vx,nn (R162) -/
  | addImm (x : Reg) (nn : Nat)
  /-- 8XY0, LD Vx,Vy (R163) -/
  | ldReg (x y : Reg)
  /-- 8XY1, OR Vx,Vy (R164) -/
  | orReg (x y : Reg)
  /-- 8XY2, AND Vx,Vy (R165) -/
  | andReg (x y : Reg)
  /-- 8XY3, XOR Vx,Vy (R166) -/
  | xorReg (x y : Reg)
  /-- 8XY4, ADD Vx,Vy (R167) -/
  | addReg (x y : Reg)
  /-- 8XY5, SUB Vx,Vy (R168) -/
  | subReg (x y : Reg)
  /-- 8XY6, SHR Vx (R169); y is decoded and ignored (R96) -/
  | shr (x y : Reg)
  /-- 8XY7, SUBN Vx,Vy (R170) -/
  | subn (x y : Reg)
  /-- 8XYE, SHL Vx (R171); y is decoded and ignored (R96) -/
  | shl (x y : Reg)
  /-- 9XY0, SNE Vx,Vy (R146) -/
  | sneReg (x y : Reg)
  /-- ANNN, LD I,nnn (R190) -/
  | ldI (nnn : Nat)
  /-- BNNN, JP V0,nnn (R147) -/
  | jpV0 (nnn : Nat)
  /-- CXNN, RND Vx,nn (R172) -/
  | rnd (x : Reg) (nn : Nat)
  /-- DXYN, DRW Vx,Vy,n (R211) -/
  | drw (x y : Reg) (n : Nat)
  /-- EX9E, SKP Vx (R220) -/
  | skp (x : Reg)
  /-- EXA1, SKNP Vx (R221) -/
  | sknp (x : Reg)
  /-- FX07, LD Vx,DT (R222) -/
  | ldVxDt (x : Reg)
  /-- FX0A, LD Vx,K (R223) -/
  | ldVxK (x : Reg)
  /-- FX15, LD DT,Vx (R224) -/
  | ldDtVx (x : Reg)
  /-- FX18, LD ST,Vx (R225) -/
  | ldStVx (x : Reg)
  /-- FX1E, ADD I,Vx (R191) -/
  | addI (x : Reg)
  /-- FX29, LD F,Vx (R192) -/
  | ldF (x : Reg)
  /-- FX33, LD B,Vx (R193) -/
  | ldB (x : Reg)
  /-- FX55, LD [I],Vx (R194) -/
  | storeRegs (x : Reg)
  /-- FX65, LD Vx,[I] (R195) -/
  | loadRegs (x : Reg)
  deriving DecidableEq, Repr

end Sys2Proof
end

