-- ==== Sys2Proof/WellFormed.lean ====
section
/-! DEFINITION. Which instructions have an encoding: every immediate fits its field (30_encoding.md R91, R93: "n is 0 to
15, nn is 0 to 255, nnn is 0 to 4095"). Register operands fit by their type. -/

namespace Sys2Proof.Instr

/-- The instruction's immediates fit their fields. -/
def wellFormed : Instr → Bool
  | .jp nnn | .call nnn | .ldI nnn | .jpV0 nnn => nnn < 4096
  | .seImm _ nn | .sneImm _ nn | .ldImm _ nn | .addImm _ nn | .rnd _ nn => nn < 256
  | .drw _ _ n => n < 16
  | .cls | .ret => true
  | .seReg _ _ | .sneReg _ _ | .ldReg _ _ | .orReg _ _ | .andReg _ _ | .xorReg _ _ | .addReg _ _ | .subReg _ _
  | .shr _ _ | .subn _ _ | .shl _ _ => true
  | .skp _ | .sknp _ | .ldVxDt _ | .ldVxK _ | .ldDtVx _ | .ldStVx _ | .addI _ | .ldF _ | .ldB _ | .storeRegs _
  | .loadRegs _ => true

/-- The instruction is well formed, as a proposition. -/
abbrev WellFormed (i : Instr) : Prop := i.wellFormed = true

end Sys2Proof.Instr
end

