-- ==== Sys2Proof/Decode.lean ====
section
/-! DEFINITION. The decoder (30_encoding.md R90, R91, R94), total on every word and on every list of bytes, the encoder
written from the same formats (R92, R95), and the opcode map (R95). -/

namespace Sys2Proof

/-! ## Fields (R8, R91) -/

/-- `op[lo + len - 1 : lo]` as an unsigned integer (00_scope.md R8). -/
def field (lo len : Nat) (op : Word) : Nat := op.toNat / 2 ^ lo % 2 ^ len

/-- `op[15:12]`, the major opcode (R91). -/
def major (op : Word) : Nat := field 12 4 op

/-- x = `op[11:8]` (R91). -/
def fieldX (op : Word) : Reg := Fin.ofNat 16 (field 8 4 op)

/-- y = `op[7:4]` (R91). -/
def fieldY (op : Word) : Reg := Fin.ofNat 16 (field 4 4 op)

/-- n = `op[3:0]` (R91). -/
def fieldN (op : Word) : Nat := field 0 4 op

/-- nn = `op[7:0]` (R91). -/
def fieldNN (op : Word) : Nat := field 0 8 op

/-- nnn = `op[11:0]` (R91). -/
def fieldNNN (op : Word) : Nat := field 0 12 op

/-! ## The decoder (R94) -/

/-- Major 0x0: two whole words (R94). -/
def decode0 (op : Word) : Option Instr :=
  if op = 0x00E0#16 then some .cls else if op = 0x00EE#16 then some .ret else none

/-- Major 0x8: the function code is n (R94). -/
def decode8 (op : Word) : Option Instr :=
  match fieldN op with
  | 0x0 => some (.ldReg (fieldX op) (fieldY op))
  | 0x1 => some (.orReg (fieldX op) (fieldY op))
  | 0x2 => some (.andReg (fieldX op) (fieldY op))
  | 0x3 => some (.xorReg (fieldX op) (fieldY op))
  | 0x4 => some (.addReg (fieldX op) (fieldY op))
  | 0x5 => some (.subReg (fieldX op) (fieldY op))
  | 0x6 => some (.shr (fieldX op) (fieldY op))
  | 0x7 => some (.subn (fieldX op) (fieldY op))
  | 0xE => some (.shl (fieldX op) (fieldY op))
  | _ => none

/-- Major 0xE: the function code is nn (R94). -/
def decodeE (op : Word) : Option Instr :=
  match fieldNN op with
  | 0x9E => some (.skp (fieldX op))
  | 0xA1 => some (.sknp (fieldX op))
  | _ => none

/-- Major 0xF: the function code is nn (R94). -/
def decodeF (op : Word) : Option Instr :=
  match fieldNN op with
  | 0x07 => some (.ldVxDt (fieldX op))
  | 0x0A => some (.ldVxK (fieldX op))
  | 0x15 => some (.ldDtVx (fieldX op))
  | 0x18 => some (.ldStVx (fieldX op))
  | 0x1E => some (.addI (fieldX op))
  | 0x29 => some (.ldF (fieldX op))
  | 0x33 => some (.ldB (fieldX op))
  | 0x55 => some (.storeRegs (fieldX op))
  | 0x65 => some (.loadRegs (fieldX op))
  | _ => none

/-- The decode procedure of R94; `none` is "unknown" (R97). The function-code bits must match exactly (log 14). -/
def decodeWord (op : Word) : Option Instr :=
  match major op with
  | 0x0 => decode0 op
  | 0x1 => some (.jp (fieldNNN op))
  | 0x2 => some (.call (fieldNNN op))
  | 0x3 => some (.seImm (fieldX op) (fieldNN op))
  | 0x4 => some (.sneImm (fieldX op) (fieldNN op))
  | 0x5 => if fieldN op = 0 then some (.seReg (fieldX op) (fieldY op)) else none
  | 0x6 => some (.ldImm (fieldX op) (fieldNN op))
  | 0x7 => some (.addImm (fieldX op) (fieldNN op))
  | 0x8 => decode8 op
  | 0x9 => if fieldN op = 0 then some (.sneReg (fieldX op) (fieldY op)) else none
  | 0xA => some (.ldI (fieldNNN op))
  | 0xB => some (.jpV0 (fieldNNN op))
  | 0xC => some (.rnd (fieldX op) (fieldNN op))
  | 0xD => some (.drw (fieldX op) (fieldY op) (fieldN op))
  | 0xE => decodeE op
  | _ => decodeF op

/-- Why a list of bytes does not decode. -/
inductive DecodeError where
  /-- Fewer than two bytes: no whole instruction word (R90). -/
  | truncated
  /-- The word matches none of the 34 patterns (R97). -/
  | unknownOpcode (op : Word)
  deriving DecidableEq, Repr

/-- The big-endian word of two bytes, the first from the lower address (20_memory.md R64). -/
def wordOfBytes (hi lo : Byte) : Word := BitVec.ofNat 16 (hi.toNat * 256 + lo.toNat)

/-- The high and the low byte of a word, in address order (R64). -/
def highByte (op : Word) : Byte := BitVec.ofNat 8 (op.toNat / 256)
def lowByte (op : Word) : Byte := BitVec.ofNat 8 op.toNat

/-- Decode the instruction at the front of a list of bytes: the instruction and the bytes after it (R90, R94). -/
def decode : List Byte → Except DecodeError (Instr × List Byte)
  | hi :: lo :: rest =>
    match decodeWord (wordOfBytes hi lo) with
    | some i => .ok (i, rest)
    | none => .error (.unknownOpcode (wordOfBytes hi lo))
  | _ => .error .truncated

/-! ## The encoder (R92, R95) -/

/-- Format NNN: a major opcode and a 12-bit immediate (R92). -/
def wordNNN (maj nnn : Nat) : Word := BitVec.ofNat 16 (maj * 4096 + nnn)

/-- Format XNN: a major opcode, a register and an 8-bit immediate (R92); format XFF with a function code for nn. -/
def wordXNN (maj : Nat) (x : Reg) (nn : Nat) : Word := BitVec.ofNat 16 (maj * 4096 + x.val * 256 + nn)

/-- Format XYN: a major opcode, two registers and a 4-bit immediate (R92); format XYF with a function code for n. -/
def wordXYN (maj : Nat) (x y : Reg) (n : Nat) : Word := BitVec.ofNat 16 (maj * 4096 + x.val * 256 + y.val * 16 + n)

/-- The instruction word of a well-formed instruction (R92, R95). -/
def encode : Instr → Word
  | .cls => 0x00E0#16
  | .ret => 0x00EE#16
  | .jp nnn => wordNNN 0x1 nnn
  | .call nnn => wordNNN 0x2 nnn
  | .seImm x nn => wordXNN 0x3 x nn
  | .sneImm x nn => wordXNN 0x4 x nn
  | .seReg x y => wordXYN 0x5 x y 0x0
  | .ldImm x nn => wordXNN 0x6 x nn
  | .addImm x nn => wordXNN 0x7 x nn
  | .ldReg x y => wordXYN 0x8 x y 0x0
  | .orReg x y => wordXYN 0x8 x y 0x1
  | .andReg x y => wordXYN 0x8 x y 0x2
  | .xorReg x y => wordXYN 0x8 x y 0x3
  | .addReg x y => wordXYN 0x8 x y 0x4
  | .subReg x y => wordXYN 0x8 x y 0x5
  | .shr x y => wordXYN 0x8 x y 0x6
  | .subn x y => wordXYN 0x8 x y 0x7
  | .shl x y => wordXYN 0x8 x y 0xE
  | .sneReg x y => wordXYN 0x9 x y 0x0
  | .ldI nnn => wordNNN 0xA nnn
  | .jpV0 nnn => wordNNN 0xB nnn
  | .rnd x nn => wordXNN 0xC x nn
  | .drw x y n => wordXYN 0xD x y n
  | .skp x => wordXNN 0xE x 0x9E
  | .sknp x => wordXNN 0xE x 0xA1
  | .ldVxDt x => wordXNN 0xF x 0x07
  | .ldVxK x => wordXNN 0xF x 0x0A
  | .ldDtVx x => wordXNN 0xF x 0x15
  | .ldStVx x => wordXNN 0xF x 0x18
  | .addI x => wordXNN 0xF x 0x1E
  | .ldF x => wordXNN 0xF x 0x29
  | .ldB x => wordXNN 0xF x 0x33
  | .storeRegs x => wordXNN 0xF x 0x55
  | .loadRegs x => wordXNN 0xF x 0x65

/-- The two bytes of an instruction in address order (R64). -/
def encodeBytes (i : Instr) : List Byte := [highByte (encode i), lowByte (encode i)]

/-! ## The opcode map (R95) and the mnemonics (R100, R103) -/

/-- A row of R95: a word `op` is this instruction exactly when `op &&& mask = pattern`. -/
structure OpcodeRow where
  mnemonic : String
  mask : Word
  pattern : Word
  deriving DecidableEq, Repr

/-- The 34 rows of R95, in its order. -/
def opcodeMap : List OpcodeRow :=
  [⟨"CLS", 0xFFFF, 0x00E0⟩, ⟨"RET", 0xFFFF, 0x00EE⟩, ⟨"JP nnn", 0xF000, 0x1000⟩, ⟨"CALL nnn", 0xF000, 0x2000⟩,
   ⟨"SE Vx,nn", 0xF000, 0x3000⟩, ⟨"SNE Vx,nn", 0xF000, 0x4000⟩, ⟨"SE Vx,Vy", 0xF00F, 0x5000⟩,
   ⟨"LD Vx,nn", 0xF000, 0x6000⟩, ⟨"ADD Vx,nn", 0xF000, 0x7000⟩, ⟨"LD Vx,Vy", 0xF00F, 0x8000⟩,
   ⟨"OR Vx,Vy", 0xF00F, 0x8001⟩, ⟨"AND Vx,Vy", 0xF00F, 0x8002⟩] ++
  [⟨"XOR Vx,Vy", 0xF00F, 0x8003⟩, ⟨"ADD Vx,Vy", 0xF00F, 0x8004⟩, ⟨"SUB Vx,Vy", 0xF00F, 0x8005⟩,
   ⟨"SHR Vx", 0xF00F, 0x8006⟩, ⟨"SUBN Vx,Vy", 0xF00F, 0x8007⟩, ⟨"SHL Vx", 0xF00F, 0x800E⟩,
   ⟨"SNE Vx,Vy", 0xF00F, 0x9000⟩, ⟨"LD I,nnn", 0xF000, 0xA000⟩, ⟨"JP V0,nnn", 0xF000, 0xB000⟩,
   ⟨"RND Vx,nn", 0xF000, 0xC000⟩, ⟨"DRW Vx,Vy,n", 0xF000, 0xD000⟩] ++
  [⟨"SKP Vx", 0xF0FF, 0xE09E⟩, ⟨"SKNP Vx", 0xF0FF, 0xE0A1⟩, ⟨"LD Vx,DT", 0xF0FF, 0xF007⟩,
   ⟨"LD Vx,K", 0xF0FF, 0xF00A⟩, ⟨"LD DT,Vx", 0xF0FF, 0xF015⟩, ⟨"LD ST,Vx", 0xF0FF, 0xF018⟩,
   ⟨"ADD I,Vx", 0xF0FF, 0xF01E⟩, ⟨"LD F,Vx", 0xF0FF, 0xF029⟩, ⟨"LD B,Vx", 0xF0FF, 0xF033⟩,
   ⟨"LD [I],Vx", 0xF0FF, 0xF055⟩, ⟨"LD Vx,[I]", 0xF0FF, 0xF065⟩]

/-- The name of an instruction: its mnemonic with the operand template (R95, R103). -/
def Instr.mnemonic : Instr → String
  | .cls => "CLS"
  | .ret => "RET"
  | .jp _ => "JP nnn"
  | .call _ => "CALL nnn"
  | .seImm _ _ => "SE Vx,nn"
  | .sneImm _ _ => "SNE Vx,nn"
  | .seReg _ _ => "SE Vx,Vy"
  | .ldImm _ _ => "LD Vx,nn"
  | .addImm _ _ => "ADD Vx,nn"
  | .ldReg _ _ => "LD Vx,Vy"
  | .orReg _ _ => "OR Vx,Vy"
  | .andReg _ _ => "AND Vx,Vy"
  | .xorReg _ _ => "XOR Vx,Vy"
  | .addReg _ _ => "ADD Vx,Vy"
  | .subReg _ _ => "SUB Vx,Vy"
  | .shr _ _ => "SHR Vx"
  | .subn _ _ => "SUBN Vx,Vy"
  | .shl _ _ => "SHL Vx"
  | .sneReg _ _ => "SNE Vx,Vy"
  | .ldI _ => "LD I,nnn"
  | .jpV0 _ => "JP V0,nnn"
  | .rnd _ _ => "RND Vx,nn"
  | .drw _ _ _ => "DRW Vx,Vy,n"
  | .skp _ => "SKP Vx"
  | .sknp _ => "SKNP Vx"
  | .ldVxDt _ => "LD Vx,DT"
  | .ldVxK _ => "LD Vx,K"
  | .ldDtVx _ => "LD DT,Vx"
  | .ldStVx _ => "LD ST,Vx"
  | .addI _ => "ADD I,Vx"
  | .ldF _ => "LD F,Vx"
  | .ldB _ => "LD B,Vx"
  | .storeRegs _ => "LD [I],Vx"
  | .loadRegs _ => "LD Vx,[I]"

/-! ## The host's table words -/

/-- The word of a table row: the low `nbits` bits of `w`, the bits above them 0 (every instruction has one word). -/
def tableWord (nbits w : Nat) : Word := BitVec.ofNat 16 (w % 2 ^ nbits)

/-- The instruction the decoder reads from a table row's word, laid out high byte first (R64). -/
def decodeTableWord (nbits w : Nat) : Option Instr :=
  match decode [highByte (tableWord nbits w), lowByte (tableWord nbits w)] with
  | .ok (i, _) => some i
  | .error _ => none

end Sys2Proof
end

