-- ==== Sys2Proof/Machine/State.lean ====
section
/-! DEFINITION. The architectural state of the CORE (10_state.md R20 to R36), why a step can stop, and the state after
reset (70_reset_and_hazards.md R300). -/

namespace Sys2Proof.Machine

/-- RAM as (address, byte) pairs in canonical form (`Memory.wf`): an address not listed reads as after reset (log 4). -/
abbrev Memory := List Host.Cell

/-- The framebuffer: 32 rows of 64 one-bit pixels, row 0 topmost, column 0 leftmost (R28). -/
abbrev Screen := Vector (Vector Bool 64) 32

/-- Everything the spec gives the machine (the table at the head of 10_state.md), and the model's own `draws`. -/
structure State where
  /-- V0 to VF; VF, register 15, is also the flag register (R20, R21). -/
  v : Vector Byte 16
  /-- The index register I (R22). -/
  i : Addr
  /-- The program counter PC (R23). -/
  pc : Addr
  /-- The return stack (R24). -/
  stack : Vector Addr 16
  /-- The stack pointer: the next-free index, 0 empty, 16 full (R25). -/
  sp : Fin 17
  /-- The delay timer DT (R26). -/
  dt : Byte
  /-- The sound timer ST (R27). -/
  st : Byte
  /-- The framebuffer (R28). -/
  fb : Screen
  /-- The key bitmap, true when pressed (R29). -/
  keys : Vector Bool 16
  /-- A `Cycle` is a no-op while set (R30). -/
  paused : Bool
  /-- Set by FX0A until a key press: steps do nothing while set (R31). -/
  waiting : Bool
  /-- The register that the key latch will write (R32). -/
  keyReg : Reg
  /-- The framebuffer may have changed since the host last cleared this (R33). -/
  drawFlag : Bool
  /-- The word most recently fetched (R34). -/
  lastOp : Word
  /-- Steps in one `Cycle` (R35). -/
  speed : Nat
  /-- RAM (R36, 20_memory.md R60). -/
  mem : Memory
  /-- THE MODEL'S OWN (log 2): how many random bytes have been drawn; the next one is `Config.randomByte draws`. -/
  draws : Nat
  deriving DecidableEq, Repr

/-- Why a step stops with no next state. -/
inductive Fault where
  /-- Raised by the fetch, DXYN, FX33, FX55 and FX65 when an address of the access lies above 0xFFF; `addr` is the
  highest one (60_exceptions.md R266: "a fault in the modelling guide's sense"). Safe: nothing can be proved of a run
  past it (log 1). -/
  | addressOutOfRange (addr : Nat)
  deriving DecidableEq, Repr

/-- Why the model gives something no meaning. -/
inductive Refusal where
  /-- Raised by an arm of `exec` that has no meaning yet; no arm raises it now. Safe. -/
  | notModelled (mnemonic : String)
  /-- Raised by the host transaction `SetSpeed(n)` with n outside 1 to 100, never by a step (46_host_interface.md R246:
  "a model gives such a transaction no meaning"). Safe (log 10). -/
  | speedOutOfRange (n : Int)
  deriving DecidableEq, Repr

/-- What a meaning, a step and a host transaction answer. -/
abbrev Result := Host.Outcome State Fault Refusal

/-- The machine right after reset (R300). The font in low RAM is what unlisted addresses read as (log 3, log 4).
`lastOp`, `keyReg` (log 7) and `i` (log 8) are the spec's own decisions; `draws` is the model's choice (log 2). -/
def State.reset : State where
  v := Vector.replicate 16 0
  i := 0
  pc := BitVec.ofNat 12 Config.programStart
  stack := Vector.replicate 16 0
  sp := 0
  dt := 0
  st := 0
  fb := Vector.replicate 32 (Vector.replicate 64 false)
  keys := Vector.replicate 16 false
  paused := false
  waiting := false
  keyReg := 0
  drawFlag := false
  lastOp := 0
  speed := Config.defaultSpeed
  mem := []
  draws := 0

end Sys2Proof.Machine
end

