-- ==== Sys2Proof/Machine/Memory.lean ====
section
/-! DEFINITION. RAM (20_memory.md R60 to R69): the font, what an unlisted address reads as, one byte read and written,
and runs of bytes at ascending addresses. -/

namespace Sys2Proof.Machine

/-- The font (R63): sixteen glyphs of five bytes, glyph g at g * 5. Glyph 0 is the source's; the other 75 bytes are the
table the spec supplies from general knowledge (PRESUMED, log 3). -/
def font : List Byte :=
  [0xF0, 0x90, 0x90, 0x90, 0xF0,  0x20, 0x60, 0x20, 0x20, 0x70,  0xF0, 0x10, 0xF0, 0x80, 0xF0,
   0xF0, 0x10, 0xF0, 0x10, 0xF0,  0x90, 0x90, 0xF0, 0x10, 0x10,  0xF0, 0x80, 0xF0, 0x10, 0xF0] ++
  [0xF0, 0x80, 0xF0, 0x90, 0xF0,  0xF0, 0x10, 0x20, 0x40, 0x40,  0xF0, 0x90, 0xF0, 0x90, 0xF0,
   0xF0, 0x90, 0xF0, 0x10, 0xF0,  0xF0, 0x90, 0xF0, 0x90, 0x90,  0xE0, 0x90, 0xE0, 0x90, 0xE0] ++
  [0xF0, 0x80, 0x80, 0x80, 0xF0,  0xE0, 0x90, 0x90, 0x90, 0xE0,  0xF0, 0x80, 0xF0, 0x80, 0xF0,
   0xF0, 0x80, 0xF0, 0x80, 0x80]

/-- What an address that memory does not list reads as: its contents after reset, the font at 0x000 to 0x04F and 0
elsewhere (R36, R62, 70_reset_and_hazards.md R300). -/
def background (a : Nat) : Byte := font.getD a 0

/-- The one form in which a memory is written (log 4): addresses strictly rising and inside RAM, and no entry equal to
what an unlisted address reads as. -/
abbrev Memory.wf (m : Memory) : Prop :=
  m.Pairwise (fun c d => c.1 < d.1) ∧ ∀ c ∈ m, c.1 < Config.ramSize ∧ c.2 ≠ background c.1

/-- The byte at an address (R68, `MemRead(addr, 1)`; the range check is `rangeFault`). -/
def Memory.read : Memory → Nat → Byte
  | [], a => background a
  | (k, b) :: m, a => if a = k then b else Memory.read m a

/-- List an address with a byte, in place of the entry it may have. -/
def Memory.insert : Memory → Nat → Byte → Memory
  | [], a, b => [(a, b)]
  | (k, c) :: m, a, b =>
    if a < k then (a, b) :: (k, c) :: m else if a = k then (a, b) :: m else (k, c) :: Memory.insert m a b

/-- Take an address off the list, wherever it is listed. -/
def Memory.erase : Memory → Nat → Memory
  | [], _ => []
  | (k, c) :: m, a => if a = k then Memory.erase m a else (k, c) :: Memory.erase m a

/-- Store a byte at an address (R68, `MemWrite(addr, 1, v)`), keeping the canonical form. -/
def Memory.write (m : Memory) (a : Nat) (b : Byte) : Memory :=
  if b = background a then m.erase a else m.insert a b

/-- Store bytes at ascending addresses from `a` on (R65). -/
def Memory.writeBytes : Memory → Nat → List Byte → Memory
  | m, _, [] => m
  | m, a, b :: bs => Memory.writeBytes (m.write a b) (a + 1) bs

/-- The big-endian word at an address (R64, R68, `MemRead(addr, 2)`). -/
def Memory.readWord (m : Memory) (a : Nat) : Nat := (m.read a).toNat * 256 + (m.read (a + 1)).toNat

/-- The bounds check of R68 on an access of `len` bytes from `base` on, addresses being exact integers: the fault with
the access's highest address if that lies above 0xFFF. An access of no byte is not checked. -/
def rangeFault (base len : Nat) : Option Fault :=
  if 0 < len ∧ Config.ramSize ≤ base + len - 1 then some (.addressOutOfRange (base + len - 1)) else none

end Sys2Proof.Machine
end

