-- ==== Sys2Proof/Machine/Ops.lean ====
section
/-! DEFINITION. The named operations over the state: registers, PC and skips, the return stack, memory accesses with
their bounds check, and the fetch (00_scope.md R9, 40_fetch_step_cycle.md R120). The hardware takes no exception and has
no return from one (60_exceptions.md R267, R269, R270), so no operation here does. -/

namespace Sys2Proof.Machine

/-! ## Registers -/

/-- VF, register 15, the flag register (10_state.md R21). -/
def flagReg : Reg := 15

/-- `V[x]` (R9, R20). -/
def State.readV (s : State) (x : Reg) : Byte := s.v[x]

/-- `V[x] <- b` (R9, R20). -/
def State.writeV (s : State) (x : Reg) (b : Byte) : State := { s with v := s.v.set x b }

/-- `I <- n`, masked to 12 bits (R9, R22). -/
def State.setI (s : State) (n : Nat) : State := { s with i := BitVec.ofNat 12 n }

/-- `pc <- n`, masked to 12 bits (R9, R23). -/
def State.setPc (s : State) (n : Nat) : State := { s with pc := BitVec.ofNat 12 n }

/-- `DT <- b` (R26). -/
def State.setDt (s : State) (b : Byte) : State := { s with dt := b }

/-- `ST <- b` (R27). -/
def State.setSt (s : State) (b : Byte) : State := { s with st := b }

/-- Enter the wait for a key that the register `x` will receive (R31, R32). -/
def State.awaitKey (s : State) (x : Reg) : State := { s with waiting := true, keyReg := x }

/-- A new picture, and `draw_flag <- true` (R28, R33). -/
def State.present (s : State) (fb : Screen) : State := { s with fb := fb, drawFlag := true }

/-- RAM is replaced by what a store left (R36). -/
def State.setMem (s : State) (m : Memory) : State := { s with mem := m }

/-- One random byte has been drawn (R126, log 2). -/
def State.countDraw (s : State) : State := { s with draws := s.draws + 1 }

/-- Add 2 to PC again if the condition holds, masked to 12 bits (41_control_flow.md R148). -/
def State.skipIf (s : State) (c : Bool) : State := if c then s.setPc (s.pc.toNat + 2) else s

/-- Write a result to Vx, and then the flag to VF, last (40_fetch_step_cycle.md R125; log 11). -/
def State.writeResultThenFlag (s : State) (x : Reg) (res flag : Byte) : State := (s.writeV x res).writeV flagReg flag

/-! ## The return stack (R24, R25) -/

/-- `stack[SP] <- a; SP <- SP + 1`, performed only with SP below 16. -/
def State.push (s : State) (a : Addr) : State :=
  { s with stack := s.stack.setIfInBounds s.sp.val a, sp := s.sp + 1 }

/-- The most recent return address, `stack[SP-1]`, read only with SP above 0. -/
def State.stackTop (s : State) : Addr := s.stack[s.sp.val - 1]'(by omega)

/-- `SP <- SP - 1`, performed only with SP above 0; the entry is not cleared (R24). -/
def State.pop (s : State) : State := { s with sp := ⟨s.sp.val - 1, by omega⟩ }

/-! ## Memory accesses (20_memory.md R68) -/

/-- `mem[a]`. -/
def State.readByte (s : State) (a : Nat) : Byte := s.mem.read a

/-- Store bytes at ascending addresses from `base` on. -/
def State.storeBytes (s : State) (base : Nat) (bs : List Byte) : State := s.setMem (s.mem.writeBytes base bs)

/-- An instruction that accesses `len` bytes from `base` on: the fault of R68, before any effect, or the state `t` it
gives. -/
def accessing (base len : Nat) (t : State) : Result :=
  match rangeFault base len with
  | some f => .fault f
  | none => .next t

/-- V0 to Vx in ascending order, the x + 1 bytes FX55 stores (43_index_memory.md R194). -/
def State.firstRegs (s : State) (x : Reg) : List Byte := s.v.toList.take (x.val + 1)

/-- `for r in 0 ..= n: V[r] <- mem[base + r]`, in ascending order (R195), from register `r` on for `n` registers. -/
def State.loadFrom (s : State) (base : Nat) : Nat → Nat → State
  | _, 0 => s
  | r, n + 1 => (s.writeV (Fin.ofNat 16 r) (s.readByte (base + r))).loadFrom base (r + 1) n

/-! ## Fetch (R120) and unknown words (R261) -/

/-- `mem[PC] * 256 + mem[PC + 1]`, the big-endian word at PC (R120, 20_memory.md R64). -/
def State.wordAtPc (s : State) : Word := BitVec.ofNat 16 (s.mem.readWord s.pc.toNat)

/-- The state as the fetch leaves it: PC advanced by 2, masked to 12 bits, and `last_op` written (R120; log 16). -/
def State.fetched (s : State) : State :=
  { s with pc := BitVec.ofNat 12 (s.pc.toNat + 2), lastOp := s.wordAtPc }

/-- `Fetch()` (R120): the word at PC and the advanced state; or the fault at PC = 0xFFF, before anything changes. -/
def fetch (s : State) : Except Fault (Word × State) :=
  match rangeFault s.pc.toNat 2 with
  | some f => .error f
  | none => .ok (s.wordAtPc, s.fetched)

/-- The state with a word stored, high byte first, where the next step fetches, and able to fetch it: not waiting, and
at 0x200 if PC is at 0xFFF, where no fetch is possible (log 20). -/
def State.placeWord (s : State) (op : Word) : State :=
  let a := if s.pc = 0xFFF#12 then Config.programStart else s.pc.toNat
  { s with pc := BitVec.ofNat 12 a, waiting := false, mem := s.mem.writeBytes a [highByte op, lowByte op] }

/-- An unknown word changes nothing beyond the fetch, and execution goes on (60_exceptions.md R261). -/
def unknownWord (_op : Word) (s : State) : Result := .next s

end Sys2Proof.Machine
end

