-- ==== Sys2Proof/Machine/Operands.lean ====
section
/-! DEFINITION. The operand forms (30_encoding.md R91, R93): immediates, the key and the glyph that the low four bits of a
register name, decimal digits, and the address I. -/

namespace Sys2Proof.Machine

/-- An 8-bit immediate as a register value (R93). -/
def imm8 (nn : Nat) : Byte := BitVec.ofNat 8 nn

/-- The low four bits of Vx (45_keypad_timers.md R220, 43_index_memory.md R192). -/
def lowNibble (b : Byte) : Fin 16 := Fin.ofNat 16 b.toNat

/-- Is the key that Vx names pressed (R220)? -/
def State.keyDown (s : State) (x : Reg) : Bool := s.keys[lowNibble (s.readV x)]

/-- The address of the glyph of a hexadecimal digit (20_memory.md R63, R192). -/
def glyphAddress (digit : Fin 16) : Nat := digit.val * 5

/-- The base address of every data access: the value of I (20_memory.md R60). -/
def State.base (s : State) : Nat := s.i.toNat

/-- Hundreds, tens and ones of a byte (R193). -/
def bcdDigits (b : Byte) : List Byte :=
  [BitVec.ofNat 8 (b.toNat / 100), BitVec.ofNat 8 (b.toNat / 10 % 10), BitVec.ofNat 8 (b.toNat % 10)]

/-- The random byte available to this step (40_fetch_step_cycle.md R126; a free value, log 2). -/
def State.randomByte (s : State) : Byte := Config.randomByte s.draws

end Sys2Proof.Machine
end

