-- ==== Sys2Proof/Machine/Flags.lean ====
section
/-! DEFINITION. Every flag computation (42_alu.md R160, R173; 43_index_memory.md R191; 44_display.md R211), on exact
integers. A flag is written to VF as a full byte, 0x00 or 0x01 (10_state.md R21). -/

namespace Sys2Proof.Machine

/-- A flag as the byte written to VF (R21). -/
def flagByte (f : Bool) : Byte := if f then 1 else 0

/-- 8XY4: the exact sum exceeds 255 (R167). -/
def carry (a b : Byte) : Bool := 0xFF < a.toNat + b.toNat

/-- 8XY5 and 8XY7: the minuend is strictly greater; equal operands give 0 (R160, R168, R170). -/
def strictlyGreater (a b : Byte) : Bool := b.toNat < a.toNat

/-- 8XY6: the bit shifted out, bit 0 (R169). -/
def bit0 (a : Byte) : Bool := a.toNat % 2 == 1

/-- 8XYE: the bit shifted out, bit 7 (R171). -/
def bit7 (a : Byte) : Bool := 0x80 ≤ a.toNat

/-- FX1E: the exact sum passes 0xFFF (R191). -/
def indexOverflow (t : Nat) : Bool := 0xFFF < t

end Sys2Proof.Machine
end

