-- ==== Sys2Proof/Machine/Alu.lean ====
section
/-! DEFINITION. Register loads, the ALU and CXNN (42_alu.md). Operands are read from the entry state, the result is
written, then the flag (40_fetch_step_cycle.md R125). -/

namespace Sys2Proof.Machine

/-- 6XNN, LD Vx,nn (R161). -/
def execLdImm (x : Reg) (nn : Nat) (s : State) : Result := .next (s.writeV x (imm8 nn))

/-- 7XNN, ADD Vx,nn: no flag (R162). -/
def execAddImm (x : Reg) (nn : Nat) (s : State) : Result := .next (s.writeV x (s.readV x + imm8 nn))

/-- 8XY0, LD Vx,Vy (R163). -/
def execLdReg (x y : Reg) (s : State) : Result := .next (s.writeV x (s.readV y))

/-- 8XY1, OR Vx,Vy (R164). -/
def execOrReg (x y : Reg) (s : State) : Result := .next (s.writeV x (s.readV x ||| s.readV y))

/-- 8XY2, AND Vx,Vy (R165). -/
def execAndReg (x y : Reg) (s : State) : Result := .next (s.writeV x (s.readV x &&& s.readV y))

/-- 8XY3, XOR Vx,Vy (R166). -/
def execXorReg (x y : Reg) (s : State) : Result := .next (s.writeV x (s.readV x ^^^ s.readV y))

/-- 8XY4, ADD Vx,Vy: VF = carry (R167). -/
def execAddReg (x y : Reg) (s : State) : Result :=
  .next (s.writeResultThenFlag x (s.readV x + s.readV y) (flagByte (carry (s.readV x) (s.readV y))))

/-- 8XY5, SUB Vx,Vy: VF = Vx strictly greater (R168). -/
def execSubReg (x y : Reg) (s : State) : Result :=
  .next (s.writeResultThenFlag x (s.readV x - s.readV y) (flagByte (strictlyGreater (s.readV x) (s.readV y))))

/-- 8XY6, SHR Vx: VF = old bit 0; y is ignored (R169, 30_encoding.md R96). -/
def execShr (x _y : Reg) (s : State) : Result :=
  .next (s.writeResultThenFlag x (s.readV x >>> 1) (flagByte (bit0 (s.readV x))))

/-- 8XY7, SUBN Vx,Vy: VF = Vy strictly greater (R170). -/
def execSubn (x y : Reg) (s : State) : Result :=
  .next (s.writeResultThenFlag x (s.readV y - s.readV x) (flagByte (strictlyGreater (s.readV y) (s.readV x))))

/-- 8XYE, SHL Vx: VF = old bit 7; y is ignored (R171, R96). -/
def execShl (x _y : Reg) (s : State) : Result :=
  .next (s.writeResultThenFlag x (s.readV x <<< 1) (flagByte (bit7 (s.readV x))))

/-- CXNN, RND Vx,nn: a fresh random byte masked by nn (R172, R126; a free value, log 2). -/
def execRnd (x : Reg) (nn : Nat) (s : State) : Result :=
  .next ((s.writeV x (s.randomByte &&& imm8 nn)).countDraw)

end Sys2Proof.Machine
end

