-- ==== Sys2Proof/Machine/Diagnostics.lean ====
section
/-! DEFINITION. The diagnostics and faults that the hardware reports (60_exceptions.md R260). They are outputs of a step or
of a transaction, not state (00_scope.md R14, 40_fetch_step_cycle.md R127; log 6). -/

namespace Sys2Proof.Machine

/-- What a step or a transaction can report (R260). -/
inductive Diagnostic where
  /-- The fetched word matches no pattern (R261). -/
  | unknownOpcode (op : Word)
  /-- 00EE with SP = 0 (R262). -/
  | stackUnderflow
  /-- 2NNN with SP = 16 (R263). -/
  | stackOverflow
  /-- `LoadROM` with more than 3584 bytes (R264). -/
  | outOfROMSpace (len : Nat)
  /-- `KeyPress` or `KeyRelease` with a key outside 0 to 15 (R265). -/
  | invalidKey
  /-- An address above 0xFFF; the step itself ends in the fault (R266). -/
  | addressOutOfRange (addr : Nat)
  deriving DecidableEq, Repr

/-- The code of R260, a label of the spec's own (92_eei_decisions.md D8). -/
def diagnosticCode : Diagnostic → Nat
  | .unknownOpcode _ => 1
  | .stackUnderflow => 2
  | .stackOverflow => 3
  | .outOfROMSpace _ => 4
  | .invalidKey => 5
  | .addressOutOfRange _ => 6

/-- A fault as it is reported (R127). -/
def faultDiagnostic : Fault → Diagnostic
  | .addressOutOfRange a => .addressOutOfRange a

/-- What 00EE reports (41_control_flow.md R140). -/
def retDiagnostic (s : State) : Option Diagnostic := if s.sp = 0 then some .stackUnderflow else none

/-- What 2NNN reports (R142). -/
def callDiagnostic (s : State) : Option Diagnostic := if s.sp = 16 then some .stackOverflow else none

end Sys2Proof.Machine
end

