-- ==== Sys2Proof/Machine/ControlFlow.lean ====
section
/-! DEFINITION. Control transfer (41_control_flow.md). PC on entry is already the address of the next instruction. -/

namespace Sys2Proof.Machine

/-- 00EE, RET (R140). With SP = 0 it reports StackUnderflow and changes nothing (log 12). -/
def execRet (s : State) : Result :=
  match retDiagnostic s with
  | some _ => .next s
  | none => .next (s.pop.setPc s.stackTop.toNat)

/-- 1NNN, JP nnn (R141). -/
def execJp (nnn : Nat) (s : State) : Result := .next (s.setPc nnn)

/-- 2NNN, CALL nnn (R142). With SP = 16 it reports StackOverflow and neither pushes nor jumps (log 12). -/
def execCall (nnn : Nat) (s : State) : Result :=
  match callDiagnostic s with
  | some _ => .next s
  | none => .next ((s.push s.pc).setPc nnn)

/-- 3XNN, SE Vx,nn (R143). -/
def execSeImm (x : Reg) (nn : Nat) (s : State) : Result := .next (s.skipIf ((s.readV x).toNat == nn))

/-- 4XNN, SNE Vx,nn (R144). -/
def execSneImm (x : Reg) (nn : Nat) (s : State) : Result := .next (s.skipIf ((s.readV x).toNat != nn))

/-- 5XY0, SE Vx,Vy (R145). -/
def execSeReg (x y : Reg) (s : State) : Result := .next (s.skipIf (s.readV x == s.readV y))

/-- 9XY0, SNE Vx,Vy (R146). -/
def execSneReg (x y : Reg) (s : State) : Result := .next (s.skipIf (s.readV x != s.readV y))

/-- BNNN, JP V0,nnn (R147). -/
def execJpV0 (nnn : Nat) (s : State) : Result := .next (s.setPc (nnn + (s.readV 0).toNat))

end Sys2Proof.Machine
end

