-- ==== Sys2Proof/Machine/Screen.lean ====
section
/-! DEFINITION. The framebuffer and the sprite XOR renderer (10_state.md R28, 44_display.md R210, R211). -/

namespace Sys2Proof.Machine

/-- `fb[row][col]` (R28). -/
def Screen.pixel (fb : Screen) (row : Fin 32) (col : Fin 64) : Bool := fb[row][col]

/-- `fb[row][col] <- b` (R28). -/
def Screen.setPixel (fb : Screen) (row : Fin 32) (col : Fin 64) (b : Bool) : Screen := fb.set row (fb[row].set col b)

/-- The empty screen (R210). -/
def Screen.blank : Screen := Vector.replicate 32 (Vector.replicate 64 false)

/-- Is the sprite bit of column `col` set: `byte & (0x80 >> col) != 0` (R211)? -/
def spriteBit (byte : Byte) (col : Nat) : Bool := byte &&& (0x80#8 >>> col) != 0

/-- The screen row and column on which a coordinate lands: each wraps (R211). -/
def wrapRow (y : Nat) : Fin 32 := Fin.ofNat 32 y
def wrapCol (x : Nat) : Fin 64 := Fin.ofNat 64 x

/-- A picture being drawn on, with the collision found so far: the two things the loops of R211 write (log 23). -/
abbrev Canvas := Screen × Bool

/-- One set sprite bit: note a collision if the pixel was 1, and flip it (R211 step 3). -/
def plot (y x : Nat) (c : Canvas) : Canvas :=
  (c.1.setPixel (wrapRow y) (wrapCol x) (!c.1.pixel (wrapRow y) (wrapCol x)), c.2 || c.1.pixel (wrapRow y) (wrapCol x))

/-- The first `n` columns of a sprite row, in ascending order (R211 step 3). -/
def drawCols (byte : Byte) (y x0 : Nat) : Nat → Canvas → Canvas
  | 0, c => c
  | n + 1, c => if spriteBit byte n then plot y (x0 + n) (drawCols byte y x0 n c) else drawCols byte y x0 n c

/-- The first `h` rows of a sprite at (x0, y0), in ascending order, each of 8 columns; `rows k` is the k-th row's byte
(R211 step 3). -/
def drawRows (rows : Nat → Byte) (x0 y0 : Nat) : Nat → Canvas → Canvas
  | 0, c => c
  | h + 1, c => drawCols (rows h) (y0 + h) x0 8 (drawRows rows x0 y0 h c)

end Sys2Proof.Machine
end

