-- ==== Sys2Proof/Machine/Display.lean ====
section
/-! DEFINITION. The display instructions (44_display.md). -/

namespace Sys2Proof.Machine

/-- 00E0, CLS (R210). -/
def execCls (s : State) : Result := .next (s.present Screen.blank)

/-- The picture and the collision after a sprite of `n` rows from I on is drawn at (Vx, Vy) on the picture of `s` with no
collision yet (R211 steps 1 to 3; log 23). -/
def State.sprite (s : State) (x y : Reg) (n : Nat) : Canvas :=
  drawRows (fun row => s.readByte (s.base + row)) (s.readV x).toNat (s.readV y).toNat n (s.fb, false)

/-- DXYN, DRW Vx,Vy,n: draw by exclusive or, VF = collision, `draw_flag` set (R211). -/
def execDrw (x y : Reg) (n : Nat) (s : State) : Result :=
  accessing s.base n ((s.present (s.sprite x y n).1).writeV flagReg (flagByte (s.sprite x y n).2))

end Sys2Proof.Machine
end

