-- ==== Sys2Proof/Machine/IndexMemory.lean ====
section
/-! DEFINITION. The index register, loads and stores (43_index_memory.md). Every access is checked whole before any effect
(20_memory.md R68), and none changes I (R194 to R196). -/

namespace Sys2Proof.Machine

/-- ANNN, LD I,nnn (R190). -/
def execLdI (nnn : Nat) (s : State) : Result := .next (s.setI nnn)

/-- FX1E, ADD I,Vx: VF is set to 1 when the exact sum passes 0xFFF and is otherwise left alone (R191; log 15). -/
def execAddI (x : Reg) (s : State) : Result :=
  if indexOverflow (s.base + (s.readV x).toNat) then
    .next ((s.setI (s.base + (s.readV x).toNat)).writeV flagReg (flagByte true))
  else
    .next (s.setI (s.base + (s.readV x).toNat))

/-- FX29, LD F,Vx (R192). -/
def execLdF (x : Reg) (s : State) : Result := .next (s.setI (glyphAddress (lowNibble (s.readV x))))

/-- FX33, LD B,Vx: the three decimal digits at I, I + 1 and I + 2 (R193). -/
def execLdB (x : Reg) (s : State) : Result := accessing s.base 3 (s.storeBytes s.base (bcdDigits (s.readV x)))

/-- FX55, LD [I],Vx: V0 to Vx at I to I + x (R194). -/
def execStoreRegs (x : Reg) (s : State) : Result := accessing s.base (x.val + 1) (s.storeBytes s.base (s.firstRegs x))

/-- FX65, LD Vx,[I]: V0 to Vx from I to I + x (R195). -/
def execLoadRegs (x : Reg) (s : State) : Result := accessing s.base (x.val + 1) (s.loadFrom s.base 0 (x.val + 1))

end Sys2Proof.Machine
end

