-- ==== Sys2Proof/Machine/KeypadTimers.lean ====
section
/-! DEFINITION. The keypad and timer instructions (45_keypad_timers.md). -/

namespace Sys2Proof.Machine

/-- EX9E, SKP Vx (R220). -/
def execSkp (x : Reg) (s : State) : Result := .next (s.skipIf (s.keyDown x))

/-- EXA1, SKNP Vx (R221). -/
def execSknp (x : Reg) (s : State) : Result := .next (s.skipIf (!s.keyDown x))

/-- FX07, LD Vx,DT (R222). -/
def execLdVxDt (x : Reg) (s : State) : Result := .next (s.writeV x s.dt)

/-- FX0A, LD Vx,K: wait for a key press; the host's `KeyPress` completes it (R223). -/
def execLdVxK (x : Reg) (s : State) : Result := .next (s.awaitKey x)

/-- FX15, LD DT,Vx (R224). -/
def execLdDtVx (x : Reg) (s : State) : Result := .next (s.setDt (s.readV x))

/-- FX18, LD ST,Vx (R225). -/
def execLdStVx (x : Reg) (s : State) : Result := .next (s.setSt (s.readV x))

end Sys2Proof.Machine
end

