-- ==== Sys2Proof/Machine/Step.lean ====
section
/-! DEFINITION. One step of the machine: the `Step` transaction (40_fetch_step_cycle.md R121; log 5). -/

namespace Sys2Proof.Machine

/-- `Step` (R121): nothing at all while waiting for a key; otherwise fetch and execute one instruction word, known or
unknown (R122). `paused` is not tested and the timers do not tick (log 13). -/
def step (s : State) : Host.Outcome State Fault Refusal :=
  if s.waiting then .next s else
  match fetch s with
  | .error f => .fault f
  | .ok (op, t) =>
    match decodeWord op with
    | none => unknownWord op t
    | some i => exec i t

/-- The state with a table row's word stored where the next step fetches its instruction (log 20). -/
def State.withFetchWord (s : State) (nbits w : Nat) : State := s.placeWord (tableWord nbits w)

end Sys2Proof.Machine
end

