-- ==== Sys2Proof/Machine/Report.lean ====
section
/-! DEFINITION. What a step reports beside its next state (40_fetch_step_cycle.md R127, 60_exceptions.md R260, R268;
log 6). -/

namespace Sys2Proof.Machine

/-- The diagnostic an instruction reports of its own: only 00EE and 2NNN have one (R268). -/
def instrDiagnostic (i : Instr) (s : State) : Option Diagnostic :=
  match i with
  | .ret => retDiagnostic s
  | .call _ => callDiagnostic s
  | .cls | .jp _ | .seImm _ _ | .sneImm _ _ | .seReg _ _ | .ldImm _ _ | .addImm _ _ | .ldReg _ _ | .orReg _ _ => none
  | .andReg _ _ | .xorReg _ _ | .addReg _ _ | .subReg _ _ | .shr _ _ | .subn _ _ | .shl _ _ | .sneReg _ _ => none
  | .ldI _ | .jpV0 _ | .rnd _ _ | .drw _ _ _ | .skp _ | .sknp _ | .ldVxDt _ | .ldVxK _ | .ldDtVx _ | .ldStVx _ => none
  | .addI _ | .ldF _ | .ldB _ | .storeRegs _ | .loadRegs _ => none

/-- What executing an instruction reports: its fault, or its own diagnostic. -/
def execReport (i : Instr) (s : State) : Option Diagnostic :=
  match exec i s with
  | .fault f => some (faultDiagnostic f)
  | .next _ => instrDiagnostic i s
  | .refused _ => none

/-- What a step reports: at most one diagnostic (R127, R268). -/
def stepReport (s : State) : Option Diagnostic :=
  if s.waiting then none else
  match fetch s with
  | .error f => some (faultDiagnostic f)
  | .ok (op, t) =>
    match decodeWord op with
    | none => some (.unknownOpcode op)
    | some i => execReport i t

end Sys2Proof.Machine
end

