-- ==== Sys2Proof/Machine/Transactions.lean ====
section
/-! DEFINITION. The host transactions (46_host_interface.md R240), the cycle and the timer tick (40_fetch_step_cycle.md R123,
R124), the reads (R248) and the run states (10_state.md R37). -/

namespace Sys2Proof.Machine

/-- What a host can ask of the CORE (R240). A read is `observe`. -/
inductive Transaction where
  | reset
  | loadRom (bytes : List Byte)
  | cycle
  | step
  | keyPress (k : Int)
  | keyRelease (k : Int)
  | setPaused (b : Bool)
  | setSpeed (n : Int)
  | clearDrawFlag
  deriving DecidableEq, Repr

/-! ## Cycle and timer tick -/

/-- A timer counts down by one and stops at 0 (R124). -/
def countDown (b : Byte) : Byte := if b = 0 then b else b - 1

/-- `TimerTick()` (R124). -/
def timerTick (s : State) : State := { s with dt := countDown s.dt, st := countDown s.st }

/-- `n` steps, stopping at a fault (R123; log 24). -/
def batch : Nat → State → Result
  | 0, s => .next s
  | n + 1, s =>
    match step s with
    | .next t => batch n t
    | .fault f => .fault f
    | .refused r => .refused r

/-- `Cycle` (R123): nothing while paused; otherwise `speed` steps and one timer tick. -/
def hostCycle (s : State) : Result :=
  if s.paused then .next s else
  match batch s.speed s with
  | .next t => .next (timerTick t)
  | .fault f => .fault f
  | .refused r => .refused r

/-! ## The other transactions -/

/-- `Reset` (70_reset_and_hazards.md R300). The source of random bytes is outside the CORE and is not rewound (R38,
R126; log 27). -/
def hostReset (s : State) : Result := .next { State.reset with draws := s.draws }

/-- Is a ROM image small enough (R242)? -/
def romFits (bytes : List Byte) : Bool := bytes.length ≤ Config.maxRomSize

/-- `LoadROM(bytes)` (R242): the image at 0x200, or nothing if it is too long (log 19). -/
def hostLoadRom (bytes : List Byte) (s : State) : Result :=
  if romFits bytes then .next (s.storeBytes Config.programStart bytes) else .next s

/-- The key an integer names, if it names one (R243). -/
def keyOf (k : Int) : Option Key := if 0 ≤ k ∧ k ≤ 15 then some (Fin.ofNat 16 k.toNat) else none

/-- The key latch, the second half of FX0A (R243, 45_keypad_timers.md R223). -/
def latchKey (k : Key) (s : State) : State :=
  if s.waiting then { s.writeV s.keyReg (BitVec.ofNat 8 k.val) with waiting := false } else s

/-- `KeyPress(k)` (R243); it latches whether or not the key was already down (log 25). -/
def hostKeyPress (k : Int) (s : State) : Result :=
  match keyOf k with
  | none => .next s
  | some key => .next (latchKey key { s with keys := s.keys.set key true })

/-- `KeyRelease(k)` (R244). -/
def hostKeyRelease (k : Int) (s : State) : Result :=
  match keyOf k with
  | none => .next s
  | some key => .next { s with keys := s.keys.set key false }

/-- `SetPaused(b)` (R245). -/
def hostSetPaused (b : Bool) (s : State) : Result := .next { s with paused := b }

/-- May a host set this speed (R246)? -/
def speedInRange (n : Int) : Bool := Config.minSpeed ≤ n ∧ n ≤ Config.maxSpeed

/-- `SetSpeed(n)` (R246); outside 1 to 100 it has no meaning (log 10). -/
def hostSetSpeed (n : Int) (s : State) : Result :=
  if speedInRange n then .next { s with speed := n.toNat } else .refused (.speedOutOfRange n)

/-- `ClearDrawFlag` (R247; log 25). -/
def hostClearDrawFlag (s : State) : Result := .next { s with drawFlag := false }

/-- The duties 3 to 5 of a host (R249), the ones that are about a transaction's argument. -/
def Transaction.wellFormed : Transaction → Bool
  | .loadRom bytes => romFits bytes
  | .keyPress k | .keyRelease k => (keyOf k).isSome
  | .setSpeed n => speedInRange n
  | .reset | .cycle | .step | .setPaused _ | .clearDrawFlag => true

/-- The state after a transaction (R240). -/
def transact (t : Transaction) (s : State) : Result :=
  match t with
  | .reset => hostReset s
  | .loadRom bytes => hostLoadRom bytes s
  | .cycle => hostCycle s
  | .step => step s
  | .keyPress k => hostKeyPress k s
  | .keyRelease k => hostKeyRelease k s
  | .setPaused b => hostSetPaused b s
  | .setSpeed n => hostSetSpeed n s
  | .clearDrawFlag => hostClearDrawFlag s

/-- A run: transactions one after another, stopping at a fault or a refusal (R240). -/
def transactAll : List Transaction → State → Result
  | [], s => .next s
  | t :: ts, s =>
    match transact t s with
    | .next u => transactAll ts u
    | .fault f => .fault f
    | .refused r => .refused r

/-! ## What a transaction reports (R127, R260; log 6) -/

/-- The diagnostics of `n` steps, in order (R127). -/
def batchReport : Nat → State → List Diagnostic
  | 0, _ => []
  | n + 1, s =>
    (stepReport s).toList ++
      match step s with
      | .next t => batchReport n t
      | .fault _ => []
      | .refused _ => []

/-- The diagnostics of a transaction. An invalid key is reported (log 18). -/
def transactReport (t : Transaction) (s : State) : List Diagnostic :=
  match t with
  | .loadRom bytes => if romFits bytes then [] else [.outOfROMSpace bytes.length]
  | .cycle => if s.paused then [] else batchReport s.speed s
  | .step => (stepReport s).toList
  | .keyPress k | .keyRelease k => if (keyOf k).isSome then [] else [.invalidKey]
  | .reset | .setPaused _ | .setSpeed _ | .clearDrawFlag => []

/-! ## Reads and run states -/

/-- What a host can read between transactions (R248). -/
structure HostView where
  memory : List Byte
  v : Vector Byte 16
  i : Addr
  pc : Addr
  sp : Fin 17
  stack : Vector Addr 16
  delayTimer : Byte
  soundTimer : Byte
  display : Screen
  keys : Vector Bool 16
  drawFlag : Bool
  waitingForKeyPress : Bool
  speed : Nat
  deriving DecidableEq, Repr

/-- The read accessors (R248): a function of the state, so a read changes nothing. -/
def observe (s : State) : HostView where
  memory := (List.range Config.ramSize).map s.readByte
  v := s.v
  i := s.i
  pc := s.pc
  sp := s.sp
  stack := s.stack
  delayTimer := s.dt
  soundTimer := s.st
  display := s.fb
  keys := s.keys
  drawFlag := s.drawFlag
  waitingForKeyPress := s.waiting
  speed := s.speed

/-- The run states (R37, 60_exceptions.md R273), and the combination of two that the source does not name. -/
inductive RunState where
  | running
  | paused
  | waitingForKey
  | pausedAndWaiting
  deriving DecidableEq, Repr

/-- The run state is read off two bits (R37). -/
def runState (s : State) : RunState :=
  match s.paused, s.waiting with
  | false, false => .running
  | true, false => .paused
  | false, true => .waitingForKey
  | true, true => .pausedAndWaiting

end Sys2Proof.Machine
end

