-- ==== Sys2Proof/Safety.lean ====
section
/-! DEFINITION. The terms claims use: the parts of the state and what a step leaves unchanged, the invariant, clean steps
and the states a run can reach. -/

namespace Sys2Proof.Machine

/-! ## Frames -/

/-- One observable part of the state. -/
inductive Part where
  | v (r : Reg)
  | i
  | pc
  | stack (k : Fin 16)
  | sp
  | dt
  | st
  | pixel (row : Fin 32) (col : Fin 64)
  | key (k : Key)
  | paused
  | waiting
  | keyReg
  | drawFlag
  | lastOp
  | speed
  | byte (a : Nat)
  | draws
  deriving DecidableEq, Repr

/-- Two states hold the same in a part; memory is compared by reading the byte. -/
def Part.agree (p : Part) (s t : State) : Prop :=
  match p with
  | .v r => t.readV r = s.readV r
  | .i => t.i = s.i
  | .pc => t.pc = s.pc
  | .stack k => t.stack[k] = s.stack[k]
  | .sp => t.sp = s.sp
  | .dt => t.dt = s.dt
  | .st => t.st = s.st
  | .pixel row col => t.fb.pixel row col = s.fb.pixel row col
  | .key k => t.keys[k] = s.keys[k]
  | .paused => t.paused = s.paused
  | .waiting => t.waiting = s.waiting
  | .keyReg => t.keyReg = s.keyReg
  | .drawFlag => t.drawFlag = s.drawFlag
  | .lastOp => t.lastOp = s.lastOp
  | .speed => t.speed = s.speed
  | .byte a => t.readByte a = s.readByte a
  | .draws => t.draws = s.draws

/-- Nothing but the parts in `may` differs between `s` and `t`. -/
def SameBut (may : Part → Prop) (s t : State) : Prop := ∀ p, ¬ may p → p.agree s t

/-! ## Control flow -/

/-- The condition of a skip instruction (41_control_flow.md R143 to R146, 45_keypad_timers.md R220, R221); false for every
other instruction. -/
def skipHolds (i : Instr) (s : State) : Bool :=
  match i with
  | .seImm x nn => (s.readV x).toNat == nn
  | .sneImm x nn => (s.readV x).toNat != nn
  | .seReg x y => s.readV x == s.readV y
  | .sneReg x y => s.readV x != s.readV y
  | .skp x => s.keys[lowNibble (s.readV x)]
  | .sknp x => !s.keys[lowNibble (s.readV x)]
  | .cls | .ret | .jp _ | .call _ | .ldImm _ _ | .addImm _ _ | .ldReg _ _ | .orReg _ _ | .andReg _ _ => false
  | .xorReg _ _ | .addReg _ _ | .subReg _ _ | .shr _ _ | .subn _ _ | .shl _ _ | .ldI _ | .jpV0 _ | .rnd _ _ => false
  | .drw _ _ _ | .ldVxDt _ | .ldVxK _ | .ldDtVx _ | .ldStVx _ | .addI _ | .ldF _ | .ldB _ | .storeRegs _ => false
  | .loadRegs _ => false

/-- The instructions after which PC need not be the next address (40_fetch_step_cycle.md R128): 1NNN, BNNN, a 00EE or a
2NNN that reports no stack fault, and a skip whose condition holds. -/
def redirects (i : Instr) (s : State) : Bool :=
  match i with
  | .jp _ | .jpV0 _ => true
  | .ret => decide (s.sp ≠ 0)
  | .call _ => decide (s.sp ≠ 16)
  | .seImm _ _ | .sneImm _ _ | .seReg _ _ | .sneReg _ _ | .skp _ | .sknp _ => skipHolds i s
  | .cls | .ldImm _ _ | .addImm _ _ | .ldReg _ _ | .orReg _ _ | .andReg _ _ | .xorReg _ _ | .addReg _ _ => false
  | .subReg _ _ | .shr _ _ | .subn _ _ | .shl _ _ | .ldI _ | .rnd _ _ | .drw _ _ _ | .ldVxDt _ | .ldVxK _ => false
  | .ldDtVx _ | .ldStVx _ | .addI _ | .ldF _ | .ldB _ | .storeRegs _ | .loadRegs _ => false

/-! ## Sprites -/

/-- The bit in row `row` and column `col` of the sprite of a DXYN with operands x, y and n is 1 and lands on the pixel
(r, c) (44_display.md R211). -/
def Lands (s : State) (x y : Reg) (n row col : Nat) (r : Fin 32) (c : Fin 64) : Prop :=
  row < n ∧ col < 8 ∧ (s.readByte (s.i.toNat + row)).getLsbD (7 - col) = true ∧
    ((s.readV y).toNat + row) % 32 = r.val ∧ ((s.readV x).toNat + col) % 64 = c.val

/-! ## The invariant (10_state.md R32, R35, R40; log 4)

The widths of R40 are carried by the types. What no type carries: RAM keeps its one form, `speed` stays in 1 to 100, and a
wait for a key was begun by the FX0A that is still the last word fetched and that names the register to be written. -/

structure Inv (s : State) : Prop where
  mem_wf : s.mem.wf
  speed_range : Config.minSpeed ≤ s.speed ∧ s.speed ≤ Config.maxSpeed
  waiting_op : s.waiting = true → decodeWord s.lastOp = some (.ldVxK s.keyReg)

/-- The states that some run of host transactions from reset can reach (46_host_interface.md R240). -/
def Reachable (s : State) : Prop := ∃ ts, transactAll ts State.reset = .next s

/-! ## Safe runs (60_exceptions.md R266; the last paragraph of 92_eei_decisions.md) -/

/-- The step has a next state and reports nothing: no address beyond RAM, no stack fault, no unknown word. -/
def CleanStep (s : State) : Prop := (∃ t, step s = .next t) ∧ stepReport s = none

/-- The next `n` steps are clean. -/
def CleanRun : Nat → State → Prop
  | 0, _ => True
  | n + 1, s => CleanStep s ∧ ∀ t, step s = .next t → CleanRun n t

end Sys2Proof.Machine
end

