-- ==== Sys2Proof/Certificates/Slice0/Obligations.lean ====
section
/-! DEFINITION. The statements for the provers. Each `def Obligations.<Name>` says in its docstring which rules of spec/ it
formalises. `SameBut may s t` is the frame: nothing but the parts in `may` differs, memory compared byte by byte. -/

open Sys2Proof Sys2Proof.Machine

/-! ## Encoding (30_encoding.md) -/

/-- Words written out bit by bit from the encodings of R92 and R95, one or more a family, decode to their
instructions, and the word 0x5AB1 to none: R94 and R97 make it unknown because every fixed bit must match (the spec's
decision D12, log 14). -/
def Obligations.WrittenWordsDecode : Prop :=
  decodeWord 0b0000000011100000#16 = some .cls ∧
  decodeWord 0b0000000011101110#16 = some .ret ∧
  decodeWord 0b0010101010111100#16 = some (.call 0xABC) ∧
  decodeWord 0b0011101001000010#16 = some (.seImm 0xA 0x42) ∧
  decodeWord 0b1000101010110111#16 = some (.subn 0xA 0xB) ∧
  decodeWord 0b1000001000111110#16 = some (.shl 0x2 0x3) ∧
  decodeWord 0b1100001100001111#16 = some (.rnd 0x3 0x0F) ∧
  decodeWord 0b1101000000010101#16 = some (.drw 0x0 0x1 0x5) ∧
  decodeWord 0b1110000110011110#16 = some (.skp 0x1) ∧
  decodeWord 0b1111010100001010#16 = some (.ldVxK 0x5) ∧
  decodeWord 0b1111001001010101#16 = some (.storeRegs 0x2) ∧
  decodeWord 0b1111001001100101#16 = some (.loadRegs 0x2) ∧
  decodeWord 0b0101101010110001#16 = none

/-- R91: the five fields are the document's shifts and masks, and they overlap as R91 says. -/
def Obligations.FieldsAreShiftsAndMasks : Prop :=
  ∀ op : Word,
    (fieldX op).val = ((op >>> 8) &&& 0xF#16).toNat ∧
    (fieldY op).val = ((op >>> 4) &&& 0xF#16).toNat ∧
    fieldN op = (op &&& 0xF#16).toNat ∧
    fieldNN op = (op &&& 0xFF#16).toNat ∧
    fieldNNN op = (op &&& 0xFFF#16).toNat ∧
    major op = (op >>> 12).toNat ∧
    fieldNN op = (fieldY op).val * 16 + fieldN op ∧
    fieldNNN op = (fieldX op).val * 256 + (fieldY op).val * 16 + fieldN op

/-- Decoding the two bytes of any well-formed instruction, whatever follows them, gives the instruction back, every operand
at every value its field admits. -/
def Obligations.DecodeInvertsEncode : Prop :=
  ∀ (i : Instr) (rest : List Byte), i.WellFormed → decode (encodeBytes i ++ rest) = .ok (i, rest)

/-- Every word that decodes is the encoding of the well-formed instruction it decodes to: no bit of a known word is
dropped. It rests on the exact matching of the fixed bits (the spec's decision D12, log 14) and on the model's keeping
the ignored y of 8XY6 and 8XYE in the syntax (R96, log 17). -/
def Obligations.EncodeInvertsDecode : Prop :=
  ∀ (op : Word) (i : Instr), decodeWord op = some i → i.WellFormed ∧ encode i = op

/-- R95: a word is an instruction exactly when its masked bits match that instruction's row of the opcode map. That
every fixed bit must match is the spec's decision D12 (log 14). -/
def Obligations.DecoderFollowsOpcodeMap : Prop :=
  ∀ (op : Word), ∀ r ∈ opcodeMap,
    (op &&& r.mask = r.pattern ↔ ∃ i, decodeWord op = some i ∧ i.mnemonic = r.mnemonic)

/-- R94, "No two patterns overlap": no word matches two rows of the opcode map. -/
def Obligations.OpcodeRowsAreDisjoint : Prop :=
  ∀ (op : Word), ∀ r ∈ opcodeMap, ∀ q ∈ opcodeMap,
    op &&& r.mask = r.pattern → op &&& q.mask = q.pattern → r = q

/-- R97: the unknown words are exactly those of its table, by major opcode (exact matching is the spec's decision D12,
log 14). -/
def Obligations.UnknownWordsAreTheListedOnes : Prop :=
  ∀ op : Word, decodeWord op = none ↔
    (major op = 0x0 ∧ op ≠ 0x00E0#16 ∧ op ≠ 0x00EE#16) ∨
    (major op = 0x5 ∧ fieldN op ≠ 0) ∨
    (major op = 0x8 ∧ fieldN op ∈ [0x8, 0x9, 0xA, 0xB, 0xC, 0xD, 0xF]) ∨
    (major op = 0x9 ∧ fieldN op ≠ 0) ∨
    (major op = 0xE ∧ fieldNN op ∉ [0x9E, 0xA1]) ∨
    (major op = 0xF ∧ fieldNN op ∉ [0x07, 0x0A, 0x15, 0x18, 0x1E, 0x29, 0x33, 0x55, 0x65])

/-! ## Fetch and step (40_fetch_step_cycle.md) -/

/-- R120: the fetch reads the big-endian word at PC, advances PC by 2 modulo 4096 and writes `last_op`; at PC = 0xFFF
it faults. The fault is the spec's decision D2 (log 1), the write of `last_op` its D13 (log 16). -/
def Obligations.FetchReadsBigEndianAndAdvances : Prop :=
  (∀ s : State, s.pc ≠ 0xFFF#12 → ∃ op t, fetch s = .ok (op, t) ∧
    op.toNat = (s.readByte s.pc.toNat).toNat * 256 + (s.readByte (s.pc.toNat + 1)).toNat ∧
    t.pc.toNat = (s.pc.toNat + 2) % 4096 ∧ t.lastOp = op ∧
    SameBut (fun p => p = .pc ∨ p = .lastOp) s t) ∧
  (∀ s : State, s.pc = 0xFFF#12 → fetch s = .error (.addressOutOfRange 0x1000))

/-- R121, R122: when the bytes at PC decode to an instruction, a step that does not wait is that instruction executed
on the state with PC advanced by 2 and `last_op` written. That a step is the `Step` transaction, which does not test
`paused`, follows the spec's decision D5 (log 5, log 13); `last_op` its D13 (log 16). -/
def Obligations.StepRunsDecodedInstruction : Prop :=
  ∀ (s : State) (i : Instr), s.waiting = false → s.pc ≠ 0xFFF#12 →
    decode [s.readByte s.pc.toNat, s.readByte (s.pc.toNat + 1)] = .ok (i, []) →
    step s = exec i { s with
      pc := s.pc + 2#12
      lastOp := wordOfBytes (s.readByte s.pc.toNat) (s.readByte (s.pc.toNat + 1)) }

/-- R121: while `waiting` is set a step changes nothing at all and reports nothing. -/
def Obligations.StepDoesNothingWhileWaiting : Prop :=
  ∀ s : State, s.waiting = true → step s = .next s ∧ stepReport s = none

/-- R120, R266: a step with PC = 0xFFF ends in the fault AddressOutOfRange(0x1000) (the spec's decision D2, log 1). -/
def Obligations.StepFaultsAtTopOfRam : Prop :=
  ∀ s : State, s.waiting = false → s.pc = 0xFFF#12 →
    step s = .fault (.addressOutOfRange 0x1000) ∧ stepReport s = some (.addressOutOfRange 0x1000)

/-- R261: an unknown word is reported; PC and `last_op` are as the fetch leaves them and everything else is unchanged
(what is unknown: decision D12, log 14; `last_op`: D13, log 16). -/
def Obligations.UnknownWordOnlyReports : Prop :=
  ∀ (s : State) (op : Word), s.waiting = false → s.pc ≠ 0xFFF#12 →
    op = wordOfBytes (s.readByte s.pc.toNat) (s.readByte (s.pc.toNat + 1)) → decodeWord op = none →
    ∃ t, step s = .next t ∧ t.pc.toNat = (s.pc.toNat + 2) % 4096 ∧ t.lastOp = op ∧
      SameBut (fun p => p = .pc ∨ p = .lastOp) s t ∧ stepReport s = some (.unknownOpcode op)

/-- R128: after any step that executes a word, PC has advanced by exactly 2 modulo 4096 unless the word is a 1NNN, a
BNNN, a 00EE or 2NNN without a stack fault (the policy for those is the spec's decision D4, log 12), or a skip whose
condition held. -/
def Obligations.PcAdvancesByTwoUnlessRedirected : Prop :=
  ∀ (s t : State), s.waiting = false → step s = .next t →
    (∀ i, decodeWord (wordOfBytes (s.readByte s.pc.toNat) (s.readByte (s.pc.toNat + 1))) = some i →
      redirects i s = false) →
    t.pc.toNat = (s.pc.toNat + 2) % 4096

/-- R268: a step never refuses; it faults exactly when it reports AddressOutOfRange; a stack underflow is reported
only with SP = 0, a stack overflow only with SP = 16, and the step that reports one has a next state. It rests on the
spec's decisions D2, D4 and D8 (log 1, log 12, log 6). -/
def Obligations.StepReportsMatchOutcomes : Prop :=
  ∀ s : State,
    (∀ r, step s ≠ .refused r) ∧
    (∀ a, step s = .fault (.addressOutOfRange a) ↔ stepReport s = some (.addressOutOfRange a)) ∧
    (stepReport s = some .stackUnderflow → s.sp.val = 0 ∧ ∃ t, step s = .next t) ∧
    (stepReport s = some .stackOverflow → s.sp.val = 16 ∧ ∃ t, step s = .next t)

/-! ## Control flow (41_control_flow.md) -/

/-- R141, R147: 1NNN and BNNN set PC, the latter modulo 4096, and change nothing else. -/
def Obligations.JumpsSetPc : Prop :=
  (∀ (nnn : Nat) (s : State), nnn < 4096 →
    ∃ t, exec (.jp nnn) s = .next t ∧ t.pc.toNat = nnn ∧ SameBut (fun p => p = .pc) s t) ∧
  (∀ (nnn : Nat) (s : State), nnn < 4096 →
    ∃ t, exec (.jpV0 nnn) s = .next t ∧ t.pc.toNat = (nnn + (s.readV 0).toNat) % 4096 ∧ SameBut (fun p => p = .pc) s t)

/-- R142: 2NNN pushes PC and jumps; with SP = 16 it reports StackOverflow and changes nothing (the spec's decision D4,
log 12). -/
def Obligations.CallPushesAndJumps : Prop :=
  (∀ (nnn : Nat) (s : State), nnn < 4096 → s.sp.val < 16 →
    ∃ t, exec (.call nnn) s = .next t ∧ t.pc.toNat = nnn ∧ t.sp.val = s.sp.val + 1 ∧
      (∀ k : Fin 16, k.val = s.sp.val → t.stack[k] = s.pc) ∧
      SameBut (fun p => p = .pc ∨ p = .sp ∨ ∃ k : Fin 16, k.val = s.sp.val ∧ p = .stack k) s t ∧
      execReport (.call nnn) s = none) ∧
  (∀ (nnn : Nat) (s : State), s.sp.val = 16 →
    exec (.call nnn) s = .next s ∧ execReport (.call nnn) s = some .stackOverflow)

/-- R140: 00EE pops the most recent return address into PC; with SP = 0 it reports StackUnderflow and changes nothing
(the spec's decision D4, log 12). -/
def Obligations.RetPopsIntoPc : Prop :=
  (∀ s : State, 0 < s.sp.val →
    ∃ t, exec .ret s = .next t ∧ t.sp.val = s.sp.val - 1 ∧
      (∀ k : Fin 16, k.val = s.sp.val - 1 → t.pc = s.stack[k]) ∧
      SameBut (fun p => p = .pc ∨ p = .sp) s t ∧ execReport .ret s = none) ∧
  (∀ s : State, s.sp.val = 0 → exec .ret s = .next s ∧ execReport .ret s = some .stackUnderflow)

/-- The document's property Q7 (95_test_vectors.md): a 00EE executed in any state that has the stack and SP the 2NNN left
restores PC to the address after the 2NNN, with SP unchanged net. -/
def Obligations.CallThenRetReturns : Prop :=
  ∀ (nnn : Nat) (s t u : State), s.sp.val < 16 → exec (.call nnn) s = .next t → u.sp = t.sp → u.stack = t.stack →
    ∃ w, exec .ret u = .next w ∧ w.pc = s.pc ∧ w.sp = s.sp ∧ SameBut (fun p => p = .pc ∨ p = .sp) u w

/-- R143 to R146: 3XNN, 4XNN, 5XY0 and 9XY0 add 2 to PC modulo 4096 when their condition holds, and change nothing
else. -/
def Obligations.SkipsCompareRegisters : Prop :=
  (∀ (x : Reg) (nn : Nat) (s : State), nn < 256 → ∃ t, exec (.seImm x nn) s = .next t ∧
    t.pc.toNat = (if (s.readV x).toNat = nn then (s.pc.toNat + 2) % 4096 else s.pc.toNat) ∧
    SameBut (fun p => p = .pc) s t) ∧
  (∀ (x : Reg) (nn : Nat) (s : State), nn < 256 → ∃ t, exec (.sneImm x nn) s = .next t ∧
    t.pc.toNat = (if (s.readV x).toNat ≠ nn then (s.pc.toNat + 2) % 4096 else s.pc.toNat) ∧
    SameBut (fun p => p = .pc) s t) ∧
  (∀ (x y : Reg) (s : State), ∃ t, exec (.seReg x y) s = .next t ∧
    t.pc.toNat = (if s.readV x = s.readV y then (s.pc.toNat + 2) % 4096 else s.pc.toNat) ∧
    SameBut (fun p => p = .pc) s t) ∧
  (∀ (x y : Reg) (s : State), ∃ t, exec (.sneReg x y) s = .next t ∧
    t.pc.toNat = (if s.readV x ≠ s.readV y then (s.pc.toNat + 2) % 4096 else s.pc.toNat) ∧
    SameBut (fun p => p = .pc) s t)

/-! ## ALU (42_alu.md) -/

/-- R161, R163: 6XNN and 8XY0 load Vx and change nothing else. -/
def Obligations.LoadsWriteOnlyVx : Prop :=
  (∀ (x : Reg) (nn : Nat) (s : State), nn < 256 →
    ∃ t, exec (.ldImm x nn) s = .next t ∧ (t.readV x).toNat = nn ∧ SameBut (fun p => p = .v x) s t) ∧
  (∀ (x y : Reg) (s : State),
    ∃ t, exec (.ldReg x y) s = .next t ∧ t.readV x = s.readV y ∧ SameBut (fun p => p = .v x) s t)

/-- R162: 7XNN adds modulo 256 and writes no flag. -/
def Obligations.AddImmediateWrapsWithoutFlag : Prop :=
  ∀ (x : Reg) (nn : Nat) (s : State), nn < 256 →
    ∃ t, exec (.addImm x nn) s = .next t ∧ (t.readV x).toNat = ((s.readV x).toNat + nn) % 256 ∧
      SameBut (fun p => p = .v x) s t

/-- R164, R165, R166: 8XY1, 8XY2 and 8XY3 are bitwise and write no flag. -/
def Obligations.LogicIsBitwiseWithoutFlag : Prop :=
  ∀ (x y : Reg) (s : State),
    (∃ t, exec (.orReg x y) s = .next t ∧ SameBut (fun p => p = .v x) s t ∧
      ∀ k, (t.readV x).getLsbD k = ((s.readV x).getLsbD k || (s.readV y).getLsbD k)) ∧
    (∃ t, exec (.andReg x y) s = .next t ∧ SameBut (fun p => p = .v x) s t ∧
      ∀ k, (t.readV x).getLsbD k = ((s.readV x).getLsbD k && (s.readV y).getLsbD k)) ∧
    (∃ t, exec (.xorReg x y) s = .next t ∧ SameBut (fun p => p = .v x) s t ∧
      ∀ k, (t.readV x).getLsbD k = ((s.readV x).getLsbD k ^^ (s.readV y).getLsbD k))

/-- R167: 8XY4 leaves the sum modulo 256 in Vx and the carry in VF, which wins if x = F; for x other than F the sum is
256 * VF + Vx. -/
def Obligations.AddLeavesSumAndCarry : Prop :=
  ∀ (x y : Reg) (s : State), ∃ t, exec (.addReg x y) s = .next t ∧
    (t.readV 15).toNat = (if 255 < (s.readV x).toNat + (s.readV y).toNat then 1 else 0) ∧
    (x ≠ 15 → (t.readV x).toNat = ((s.readV x).toNat + (s.readV y).toNat) % 256 ∧
      (s.readV x).toNat + (s.readV y).toNat = 256 * (t.readV 15).toNat + (t.readV x).toNat) ∧
    SameBut (fun p => p = .v x ∨ p = .v 15) s t

/-- R168, R170: 8XY5 and 8XY7 leave the difference modulo 256 in Vx and "minuend strictly greater" in VF; equal
operands give flag 0. That the flag remains when x = F is the spec's decision D3 (log 11). -/
def Obligations.SubtractsLeaveDifferenceAndStrictFlag : Prop :=
  ∀ (x y : Reg) (s : State),
    (∃ t, exec (.subReg x y) s = .next t ∧
      (t.readV 15).toNat = (if (s.readV y).toNat < (s.readV x).toNat then 1 else 0) ∧
      (x ≠ 15 → (t.readV x).toNat = (256 + (s.readV x).toNat - (s.readV y).toNat) % 256) ∧
      SameBut (fun p => p = .v x ∨ p = .v 15) s t) ∧
    (∃ t, exec (.subn x y) s = .next t ∧
      (t.readV 15).toNat = (if (s.readV x).toNat < (s.readV y).toNat then 1 else 0) ∧
      (x ≠ 15 → (t.readV x).toNat = (256 + (s.readV y).toNat - (s.readV x).toNat) % 256) ∧
      SameBut (fun p => p = .v x ∨ p = .v 15) s t)

/-- R169, R171, R96: 8XY6 and 8XYE shift Vx by one and leave the bit shifted out in VF, whatever y is. That the flag
remains when x = F is the spec's decision D3 (log 11). -/
def Obligations.ShiftsLeaveBitShiftedOut : Prop :=
  ∀ (x y : Reg) (s : State),
    (∃ t, exec (.shr x y) s = .next t ∧
      (t.readV 15).toNat = (s.readV x).toNat % 2 ∧
      (x ≠ 15 → (t.readV x).toNat = (s.readV x).toNat / 2) ∧
      SameBut (fun p => p = .v x ∨ p = .v 15) s t) ∧
    (∃ t, exec (.shl x y) s = .next t ∧
      (t.readV 15).toNat = (s.readV x).toNat / 128 ∧
      (x ≠ 15 → (t.readV x).toNat = 2 * (s.readV x).toNat % 256) ∧
      SameBut (fun p => p = .v x ∨ p = .v 15) s t)

/-- R172: CXNN writes a byte with no bit outside nn, the drawn byte masked. The drawn byte is a free value and `draws` is
the model's own (log 2): the statement holds for every value of both. -/
def Obligations.RandomByteIsMasked : Prop :=
  ∀ (x : Reg) (nn : Nat) (s : State), nn < 256 →
    ∃ t, exec (.rnd x nn) s = .next t ∧
      t.readV x = Config.randomByte s.draws &&& BitVec.ofNat 8 nn ∧
      t.readV x &&& ~~~(BitVec.ofNat 8 nn) = 0 ∧ t.draws = s.draws + 1 ∧
      SameBut (fun p => p = .v x ∨ p = .draws) s t

/-! ## Index register and memory (43_index_memory.md) -/

/-- R190, R192: ANNN and FX29 set I and change nothing else. -/
def Obligations.IndexLoadsSetI : Prop :=
  (∀ (nnn : Nat) (s : State), nnn < 4096 →
    ∃ t, exec (.ldI nnn) s = .next t ∧ t.i.toNat = nnn ∧ SameBut (fun p => p = .i) s t) ∧
  (∀ (x : Reg) (s : State),
    ∃ t, exec (.ldF x) s = .next t ∧ t.i.toNat = (s.readV x).toNat % 16 * 5 ∧ SameBut (fun p => p = .i) s t)

/-- R191: FX1E adds to I modulo 4096; VF becomes 1 when the exact sum passes 0xFFF and is otherwise unchanged (the
spec's decision D17, log 15). -/
def Obligations.AddToIndexFlagsOnlyOverflow : Prop :=
  ∀ (x : Reg) (s : State), ∃ t, exec (.addI x) s = .next t ∧
    t.i.toNat = (s.i.toNat + (s.readV x).toNat) % 4096 ∧
    (0xFFF < s.i.toNat + (s.readV x).toNat → t.readV 15 = 1) ∧
    (s.i.toNat + (s.readV x).toNat ≤ 0xFFF → t.readV 15 = s.readV 15) ∧
    SameBut (fun p => p = .i ∨ p = .v 15) s t

/-- R193: FX33 stores the three decimal digits of Vx at I, I + 1 and I + 2; with I + 2 above 0xFFF it faults (the
spec's decision D2, log 1). -/
def Obligations.BcdStoresDecimalDigits : Prop :=
  (∀ (x : Reg) (s : State), s.i.toNat + 2 ≤ 0xFFF →
    ∃ t, exec (.ldB x) s = .next t ∧
      (t.readByte s.i.toNat).toNat = (s.readV x).toNat / 100 ∧
      (t.readByte (s.i.toNat + 1)).toNat = (s.readV x).toNat / 10 % 10 ∧
      (t.readByte (s.i.toNat + 2)).toNat = (s.readV x).toNat % 10 ∧
      100 * (t.readByte s.i.toNat).toNat + 10 * (t.readByte (s.i.toNat + 1)).toNat +
        (t.readByte (s.i.toNat + 2)).toNat = (s.readV x).toNat ∧
      SameBut (fun p => ∃ k, k < 3 ∧ p = .byte (s.i.toNat + k)) s t) ∧
  (∀ (x : Reg) (s : State), 0xFFF < s.i.toNat + 2 →
    exec (.ldB x) s = .fault (.addressOutOfRange (s.i.toNat + 2)))

/-- R194: FX55 stores V0 to Vx at I to I + x and leaves I and every other byte unchanged; with I + x above 0xFFF it
faults (the spec's decision D2, log 1). -/
def Obligations.StoreRegistersWritesRange : Prop :=
  (∀ (x : Reg) (s : State), s.i.toNat + x.val ≤ 0xFFF →
    ∃ t, exec (.storeRegs x) s = .next t ∧
      (∀ r : Reg, r ≤ x → t.readByte (s.i.toNat + r.val) = s.readV r) ∧
      SameBut (fun p => ∃ r : Reg, r ≤ x ∧ p = .byte (s.i.toNat + r.val)) s t) ∧
  (∀ (x : Reg) (s : State), 0xFFF < s.i.toNat + x.val →
    exec (.storeRegs x) s = .fault (.addressOutOfRange (s.i.toNat + x.val)))

/-- R195: FX65 loads V0 to Vx from I to I + x and leaves I, memory and the registers above Vx unchanged; with I + x
above 0xFFF it faults (the spec's decision D2, log 1). -/
def Obligations.LoadRegistersReadsRange : Prop :=
  (∀ (x : Reg) (s : State), s.i.toNat + x.val ≤ 0xFFF →
    ∃ t, exec (.loadRegs x) s = .next t ∧
      (∀ r : Reg, r ≤ x → t.readV r = s.readByte (s.i.toNat + r.val)) ∧
      SameBut (fun p => ∃ r : Reg, r ≤ x ∧ p = .v r) s t) ∧
  (∀ (x : Reg) (s : State), 0xFFF < s.i.toNat + x.val →
    exec (.loadRegs x) s = .fault (.addressOutOfRange (s.i.toNat + x.val)))

/-- R195, Q9: FX55 and then FX65 with the same x, the same I and the stored bytes intervening unchanged restore V0 to
Vx. -/
def Obligations.StoreThenLoadRestoresRegisters : Prop :=
  ∀ (x : Reg) (s t u : State), exec (.storeRegs x) s = .next t → u.i = s.i →
    (∀ r : Reg, r ≤ x → u.readByte (s.i.toNat + r.val) = t.readByte (s.i.toNat + r.val)) →
    ∃ w, exec (.loadRegs x) u = .next w ∧ ∀ r : Reg, r ≤ x → w.readV r = s.readV r

/-- R74: bytes that FX55 stores at PC are the very next instruction word. -/
def Obligations.StoredBytesAreFetchedNext : Prop :=
  ∀ (x : Reg) (s t : State), 1 ≤ x.val → exec (.storeRegs x) s = .next t → t.pc = t.i →
    ∃ u, fetch t = .ok (wordOfBytes (s.readV 0) (s.readV 1), u)

/-! ## Display (44_display.md) -/

/-- R210: 00E0 clears every pixel and sets `draw_flag`, and changes nothing else. -/
def Obligations.ClearScreenBlanksAllPixels : Prop :=
  ∀ s : State, ∃ t, exec .cls s = .next t ∧ (∀ r c, t.fb.pixel r c = false) ∧ t.drawFlag = true ∧
    SameBut (fun p => p = .drawFlag ∨ ∃ r c, p = .pixel r c) s t

/-- R211: DXYN flips exactly the pixels on which a set sprite bit lands, wrapping on both axes; VF is 1 if such a
pixel was 1 and else 0; `draw_flag` is set; nothing else changes. With n at least 1 and I + n - 1 above 0xFFF it
faults (the spec's decision D2, log 1). -/
def Obligations.DrawFlipsCoveredPixels : Prop :=
  (∀ (x y : Reg) (n : Nat) (s : State), n < 16 → (n = 0 ∨ s.i.toNat + n - 1 ≤ 0xFFF) →
    ∃ t, exec (.drw x y n) s = .next t ∧
      (∀ r c, (∃ row col, Lands s x y n row col r c) → t.fb.pixel r c = !s.fb.pixel r c) ∧
      (∀ r c, (¬ ∃ row col, Lands s x y n row col r c) → t.fb.pixel r c = s.fb.pixel r c) ∧
      ((∃ r c row col, Lands s x y n row col r c ∧ s.fb.pixel r c = true) → t.readV 15 = 1) ∧
      ((¬ ∃ r c row col, Lands s x y n row col r c ∧ s.fb.pixel r c = true) → t.readV 15 = 0) ∧
      t.drawFlag = true ∧
      SameBut (fun p => p = .v 15 ∨ p = .drawFlag ∨ ∃ r c, p = .pixel r c) s t) ∧
  (∀ (x y : Reg) (n : Nat) (s : State), 1 ≤ n → 0xFFF < s.i.toNat + n - 1 →
    exec (.drw x y n) s = .fault (.addressOutOfRange (s.i.toNat + n - 1)))

/-- Q10: the same sprite drawn twice at the same place (x and y other than F) restores the picture; from an empty
screen, VF is 1 after the second draw if the sprite has a set bit (why only from an empty screen: log 29). -/
def Obligations.DrawingTwiceRestoresScreen : Prop :=
  ∀ (x y : Reg) (n : Nat) (s t u : State), n < 16 → x ≠ 15 → y ≠ 15 →
    exec (.drw x y n) s = .next t → exec (.drw x y n) t = .next u →
    u.fb = s.fb ∧
    ((∀ r c, s.fb.pixel r c = false) → (∃ r c row col, Lands s x y n row col r c) → u.readV 15 = 1)

/-! ## Keypad and timers (45_keypad_timers.md) -/

/-- R220, R221: EX9E and EXA1 skip by the state of the key that the low four bits of Vx name, and change nothing else. -/
def Obligations.KeySkipsTestOneKey : Prop :=
  ∀ (x : Reg) (k : Key) (s : State), (s.readV x).toNat % 16 = k.val →
    (∃ t, exec (.skp x) s = .next t ∧
      t.pc.toNat = (if s.keys[k] = true then (s.pc.toNat + 2) % 4096 else s.pc.toNat) ∧
      SameBut (fun p => p = .pc) s t) ∧
    (∃ t, exec (.sknp x) s = .next t ∧
      t.pc.toNat = (if s.keys[k] = false then (s.pc.toNat + 2) % 4096 else s.pc.toNat) ∧
      SameBut (fun p => p = .pc) s t)

/-- R222, R224, R225: FX07 reads DT; FX15 and FX18 write DT and ST; nothing else changes. -/
def Obligations.TimerInstructionsMoveBytes : Prop :=
  ∀ (x : Reg) (s : State),
    (∃ t, exec (.ldVxDt x) s = .next t ∧ t.readV x = s.dt ∧ SameBut (fun p => p = .v x) s t) ∧
    (∃ t, exec (.ldDtVx x) s = .next t ∧ t.dt = s.readV x ∧ SameBut (fun p => p = .dt) s t) ∧
    (∃ t, exec (.ldStVx x) s = .next t ∧ t.st = s.readV x ∧ SameBut (fun p => p = .st) s t)

/-- R223: FX0A sets `waiting` and records x, and changes nothing else, whatever keys are held. -/
def Obligations.WaitForKeySetsWaiting : Prop :=
  ∀ (x : Reg) (s : State), ∃ t, exec (.ldVxK x) s = .next t ∧ t.waiting = true ∧ t.keyReg = x ∧
    SameBut (fun p => p = .waiting ∨ p = .keyReg) s t

/-- R223, R243: after FX0A, `KeyPress(k)` puts k into Vx, ends the wait and does not move PC. That it does so even if
key k is already down is the spec's decision D15 (log 25). -/
def Obligations.KeyPressCompletesWait : Prop :=
  ∀ (x : Reg) (k : Key) (s t : State), exec (.ldVxK x) s = .next t →
    ∃ u, transact (.keyPress k.val) t = .next u ∧ (u.readV x).toNat = k.val ∧ u.waiting = false ∧ u.keys[k] = true ∧
      SameBut (fun p => p = .v x ∨ p = .waiting ∨ p = .keyReg ∨ p = .key k) s u

/-- R31: of all host transactions only `Reset` and a `KeyPress` of a key 0 to 15 end a wait. -/
def Obligations.OnlyKeyPressOrResetEndsWait : Prop :=
  ∀ (a : Transaction) (s t : State), s.waiting = true → transact a s = .next t → t.waiting = false →
    a = .reset ∨ ∃ k : Int, 0 ≤ k ∧ k ≤ 15 ∧ a = .keyPress k

/-! ## Host transactions (46_host_interface.md, 40_fetch_step_cycle.md R123, R124) -/

/-- R243, R244: the effect of `KeyPress(k)` and `KeyRelease(k)` for a key 0 to 15, and that they ignore any other
integer. That a press of a key already down latches too is the spec's decision D15 (log 25). -/
def Obligations.KeyEventsSetAndClearKeys : Prop :=
  (∀ (k : Key) (s : State), s.waiting = false → ∃ t, transact (.keyPress k.val) s = .next t ∧ t.keys[k] = true ∧
    SameBut (fun p => p = .key k) s t) ∧
  (∀ (k : Key) (s : State), s.waiting = true → ∃ t, transact (.keyPress k.val) s = .next t ∧ t.keys[k] = true ∧
    (t.readV s.keyReg).toNat = k.val ∧ t.waiting = false ∧
    SameBut (fun p => p = .key k ∨ p = .v s.keyReg ∨ p = .waiting) s t) ∧
  (∀ (k : Key) (s : State), ∃ t, transact (.keyRelease k.val) s = .next t ∧ t.keys[k] = false ∧
    SameBut (fun p => p = .key k) s t) ∧
  (∀ (k : Int) (s : State), k < 0 ∨ 15 < k →
    transact (.keyPress k) s = .next s ∧ transact (.keyRelease k) s = .next s)

/-- R123, R124: a `Cycle` does nothing at all and reports nothing while paused; otherwise it runs `speed` steps of the
machine and then counts DT and ST down by one each, stopping at 0, and reports what the steps report, in order (R127). -/
def Obligations.CycleRunsSpeedStepsThenTicks : Prop :=
  (∀ s : State, s.paused = true → transact .cycle s = .next s ∧ transactReport .cycle s = []) ∧
  (∀ s u : State, s.paused = false → Host.Core.run Sys2Proof.core s.speed s = .next u →
    ∃ t, transact .cycle s = .next t ∧ t.dt.toNat = u.dt.toNat - 1 ∧ t.st.toNat = u.st.toNat - 1 ∧
      SameBut (fun p => p = .dt ∨ p = .st) u t ∧ transactReport .cycle s = batchReport s.speed s)

/-- R123, R124, R31: any number k of `Cycle`s while waiting and not paused execute no instruction and count DT and ST down
by k, stopping at 0; nothing else changes. -/
def Obligations.WaitingCyclesOnlyTick : Prop :=
  ∀ (k : Nat) (s : State), s.waiting = true → s.paused = false →
    ∃ t, transactAll (List.replicate k .cycle) s = .next t ∧ t.dt.toNat = s.dt.toNat - k ∧ t.st.toNat = s.st.toNat - k ∧
      SameBut (fun p => p = .dt ∨ p = .st) s t

/-- R31, R121: no number of steps changes anything while `waiting` is set. -/
def Obligations.WaitingRunsStandStill : Prop :=
  ∀ (k : Nat) (s : State), s.waiting = true → Host.Core.run Sys2Proof.core k s = .next s ∧ batchReport k s = []

/-- R242: `LoadROM` stores an image of at most 3584 bytes from 0x200 on and changes nothing else; a longer one is
rejected whole and reported. At any time and with any size: the spec's decision D14 (log 19). -/
def Obligations.LoadRomStoresImageOrRejects : Prop :=
  (∀ (bytes : List Byte) (s : State), bytes.length ≤ 3584 →
    ∃ t, transact (.loadRom bytes) s = .next t ∧
      (∀ (k : Nat) (h : k < bytes.length), t.readByte (0x200 + k) = bytes[k]) ∧
      SameBut (fun p => ∃ k, k < bytes.length ∧ p = .byte (0x200 + k)) s t ∧
      transactReport (.loadRom bytes) s = []) ∧
  (∀ (bytes : List Byte) (s : State), 3584 < bytes.length →
    transact (.loadRom bytes) s = .next s ∧ transactReport (.loadRom bytes) s = [.outOfROMSpace bytes.length])

/-- R245, R246, R247: `SetPaused`, `SetSpeed` and `ClearDrawFlag` write their one element; a speed outside 1 to 100 is
refused (the spec's decision D10, log 10). -/
def Obligations.HostControlsWriteOneElement : Prop :=
  (∀ (b : Bool) (s : State), ∃ t, transact (.setPaused b) s = .next t ∧ t.paused = b ∧
    SameBut (fun p => p = .paused) s t) ∧
  (∀ (n : Int) (s : State), 1 ≤ n → n ≤ 100 → ∃ t, transact (.setSpeed n) s = .next t ∧ (t.speed : Int) = n ∧
    SameBut (fun p => p = .speed) s t) ∧
  (∀ (n : Int) (s : State), n < 1 ∨ 100 < n → transact (.setSpeed n) s = .refused (.speedOutOfRange n)) ∧
  (∀ s : State, ∃ t, transact .clearDrawFlag s = .next t ∧ t.drawFlag = false ∧
    SameBut (fun p => p = .drawFlag) s t)

/-! ## Reset (70_reset_and_hazards.md) -/

/-- R300: what `Reset` leaves, from any state. The font bytes beyond glyph 0 are the model's (PRESUMED, log 3), and so
is that the count of random draws is kept (log 27); I, `key_reg` and `last_op` are the spec's decisions D18 and D6
(log 8, log 7). -/
def Obligations.ResetGivesEveryElement : Prop :=
  ∀ s : State, ∃ t, transact .reset s = .next t ∧
    (∀ r, t.readV r = 0) ∧ t.i = 0 ∧ t.pc = 0x200#12 ∧ (∀ k : Fin 16, t.stack[k] = 0) ∧ t.sp = 0 ∧
    t.dt = 0 ∧ t.st = 0 ∧ (∀ r c, t.fb.pixel r c = false) ∧ (∀ k : Key, t.keys[k] = false) ∧
    t.paused = false ∧ t.waiting = false ∧ t.keyReg = 0 ∧ t.drawFlag = false ∧ t.lastOp = 0 ∧ t.speed = 10 ∧
    (List.range 5).map t.readByte = [0xF0, 0x90, 0x90, 0x90, 0xF0] ∧
    (∀ a, a < 0x50 → t.readByte a = font.getD a 0 ∧ (t.readByte a).toNat % 16 = 0) ∧
    (∀ a, 0x50 ≤ a → t.readByte a = 0) ∧ t.draws = s.draws

/-! ## Whole-machine rules and invariants -/

/-- Every step from a state that meets the invariant (10_state.md R40, R35, R32; log 4) gives one that meets it: RAM
keeps its canonical form, `speed` stays in 1 to 100, and a wait was begun by the FX0A that is the last word fetched
(read off R32 and the spec's decision D13, log 16). -/
def Obligations.StepPreservesMachineForm : Prop :=
  ∀ s t : State, Inv s → step s = .next t → Inv t

/-- The reset state meets the invariant: `speed` is 10 and no wait is on (R300, R35, R31), and RAM lists nothing,
which is the model's own canonical form of the RAM that R36 and R300 give (log 4). -/
def Obligations.ResetStateHasMachineForm : Prop := Inv State.reset

/-- Every host transaction, the cycle included, keeps the invariant. Its RAM form is the model's own (R36, log 4);
that `speed` stays in range rests on the refusal of other speeds (R35, R246, the spec's decision D10, log 10), and
that a wait matches the last word fetched on R32, R34 and the spec's decision D13 (log 16). -/
def Obligations.TransactionsPreserveMachineForm : Prop :=
  ∀ (a : Transaction) (s t : State), Inv s → transact a s = .next t → Inv t

/-- Every state that a run of host transactions from reset reaches meets the invariant. It rests, as the invariant's
clauses do, on the model's own RAM form (R36, log 4), on the refusal of speeds out of range (R35, R246, the spec's
decision D10, log 10) and on when `last_op` is written (R32, R34, the spec's decision D13, log 16). -/
def Obligations.ReachableStatesHaveMachineForm : Prop :=
  ∀ s : State, Reachable s → Inv s

/-- R260, R266, R268: a step that does not wait is clean exactly when PC is not 0xFFF, the word is an instruction, it
is no 00EE on an empty stack and no 2NNN on a full one, and its data access ends inside RAM; a step that waits is
clean. A run of n clean steps has a next state and reports nothing. It rests on the spec's decisions D2, D4, D8 and
D12 (log 1, log 12, log 6, log 14). -/
def Obligations.CleanStepsMeetTheConditions : Prop :=
  (∀ s : State, CleanStep s ↔ s.waiting = true ∨ (s.pc ≠ 0xFFF#12 ∧
    ∃ i, decodeWord (wordOfBytes (s.readByte s.pc.toNat) (s.readByte (s.pc.toNat + 1))) = some i ∧
      (i = .ret → s.sp.val ≠ 0) ∧ (∀ nnn, i = .call nnn → s.sp.val ≠ 16) ∧
      (∀ x y n, i = .drw x y n → n = 0 ∨ s.i.toNat + n - 1 ≤ 0xFFF) ∧
      (∀ x, i = .ldB x → s.i.toNat + 2 ≤ 0xFFF) ∧
      (∀ x : Reg, i = .storeRegs x ∨ i = .loadRegs x → s.i.toNat + x.val ≤ 0xFFF))) ∧
  (∀ (n : Nat) (s : State), CleanRun n s →
    ∃ t, Host.Core.run Sys2Proof.core n s = .next t ∧ batchReport n s = [])

/-- Memories in canonical form that read the same are the same data (log 4). -/
def Obligations.CanonicalMemoriesAreDeterminedByReads : Prop :=
  ∀ m k : Memory, m.wf → k.wf → (∀ a, m.read a = k.read a) → m = k

/-- R260, R266, R68: every instruction has a next state in every state, but that DXYN, FX33, FX55 and FX65 fault when
their range passes 0xFFF (the spec's decision D2, log 1); none refuses. -/
def Obligations.OnlyRangeFaultsStopInstructions : Prop :=
  ∀ (i : Instr) (s : State), (∃ t, exec i s = .next t) ∨
    ∃ a, exec i s = .fault (.addressOutOfRange a) ∧ 0xFFF < a ∧
      ((∃ x y n, i = .drw x y n ∧ 1 ≤ n ∧ a = s.i.toNat + n - 1) ∨ (∃ x, i = .ldB x ∧ a = s.i.toNat + 2) ∨
        (∃ x : Reg, i = .storeRegs x ∧ a = s.i.toNat + x.val) ∨ (∃ x : Reg, i = .loadRegs x ∧ a = s.i.toNat + x.val))

/-- R20, R21, R173: an instruction that changes a V register names it as its destination Vx, is FX65 and loads it, or
is one of 8XY4 to 8XY7, 8XYE, DXYN and FX1E and changes VF. That FX1E does so only when the sum passes 0xFFF is the
spec's decision D17 (R191, log 15). -/
def Obligations.RegisterWritersAreTheListedOnes : Prop :=
  ∀ (i : Instr) (s t : State) (r : Reg), exec i s = .next t → t.readV r ≠ s.readV r →
    (∃ nn, i = .ldImm r nn) ∨ (∃ nn, i = .addImm r nn) ∨ (∃ nn, i = .rnd r nn) ∨ i = .ldVxDt r ∨
    (∃ y, i = .ldReg r y ∨ i = .orReg r y ∨ i = .andReg r y ∨ i = .xorReg r y) ∨
    (∃ x y, (i = .addReg x y ∨ i = .subReg x y ∨ i = .shr x y ∨ i = .subn x y ∨ i = .shl x y) ∧ (r = x ∨ r = 15)) ∨
    (∃ x, i = .loadRegs x ∧ r ≤ x) ∨ (r = 15 ∧ ∃ x y n, i = .drw x y n) ∨
    (r = 15 ∧ ∃ x, i = .addI x ∧ 0xFFF < s.i.toNat + (s.readV x).toNat)

/-- R60, R196: the only instructions that change RAM are FX33, at I to I + 2, and FX55, at I to I + x. -/
def Obligations.RamWritersAreTheListedOnes : Prop :=
  ∀ (i : Instr) (s t : State) (a : Nat), exec i s = .next t → t.readByte a ≠ s.readByte a →
    (∃ x, i = .ldB x ∧ s.i.toNat ≤ a ∧ a ≤ s.i.toNat + 2) ∨
    (∃ x : Reg, i = .storeRegs x ∧ s.i.toNat ≤ a ∧ a ≤ s.i.toNat + x.val)

/-- The "written by" column of the table of 10_state.md (R22, R24 to R35) for everything but the V registers, RAM and
PC: only the instructions it names change each element, and none changes `keys`, `paused` or `speed`. That none
changes `last_op` after the fetch is the spec's decision D13 (R34, log 16). `draws` is the model's own (log 2). -/
def Obligations.OtherWritersAreTheListedOnes : Prop :=
  ∀ (i : Instr) (s t : State), exec i s = .next t →
    (t.i ≠ s.i → (∃ nnn, i = .ldI nnn) ∨ (∃ x, i = .addI x) ∨ ∃ x, i = .ldF x) ∧
    (t.stack ≠ s.stack → ∃ nnn, i = .call nnn) ∧
    (t.sp ≠ s.sp → i = .ret ∨ ∃ nnn, i = .call nnn) ∧
    (t.dt ≠ s.dt → ∃ x, i = .ldDtVx x) ∧
    (t.st ≠ s.st → ∃ x, i = .ldStVx x) ∧
    (t.fb ≠ s.fb ∨ t.drawFlag ≠ s.drawFlag → i = .cls ∨ ∃ x y n, i = .drw x y n) ∧
    (t.waiting ≠ s.waiting ∨ t.keyReg ≠ s.keyReg → ∃ x, i = .ldVxK x ∧ t.waiting = true ∧ t.keyReg = x) ∧
    (t.draws ≠ s.draws → ∃ x nn, i = .rnd x nn) ∧
    t.keys = s.keys ∧ t.paused = s.paused ∧ t.speed = s.speed ∧ t.lastOp = s.lastOp

/-- R30, R33, R34, R35: no instruction reads `paused`, `draw_flag`, `last_op` or `speed`: with other values in them it
gives the same outcome, but for those elements themselves. For CXNN the two executions agree because both draw the
free byte at one and the same count, the model's choice of log 2, which is unsafe for statements that compare two
runs. -/
def Obligations.HostBitsDoNotInfluenceInstructions : Prop :=
  ∀ (i : Instr) (s : State) (b d : Bool) (w : Word) (n : Nat),
    (∀ t, exec i s = .next t → ∃ u, exec i { s with paused := b, lastOp := w, speed := n, drawFlag := d } = .next u ∧
      SameBut (fun p => p = .paused ∨ p = .lastOp ∨ p = .speed ∨ p = .drawFlag) t u) ∧
    (∀ f, exec i s = .fault f → exec i { s with paused := b, lastOp := w, speed := n, drawFlag := d } = .fault f)
end

