-- ==== Sys2Proof/Laws/Memory.lean ====
section
/-! SUPPORT. The laws of RAM: a read after a write, and that every memory operation keeps the canonical form. -/

namespace Sys2Proof.Machine

/-! ### What a read gives -/

@[simp] theorem Memory.read_nil (a : Nat) : Memory.read [] a = background a := rfl

theorem Memory.read_insert (m : Memory) (a x : Nat) (b : Byte) :
    (m.insert a b).read x = if x = a then b else m.read x := by
  induction m with
  | nil => rfl
  | cons c m ih =>
    simp only [Memory.insert]
    split
    · rfl
    · split
      · next h => subst h; simp only [Memory.read]; split <;> rfl
      · next h => simp only [Memory.read, ih]; grind

theorem Memory.read_erase (m : Memory) (a x : Nat) :
    (m.erase a).read x = if x = a then background a else m.read x := by
  induction m with
  | nil => simp only [Memory.erase, Memory.read]; split <;> simp_all
  | cons c m ih => simp only [Memory.erase, Memory.read]; grind [Memory.read]

/-- A read gives the byte last written at the address, and what it gave before anywhere else (20_memory.md R68, R70). -/
theorem Memory.read_write (m : Memory) (a x : Nat) (b : Byte) :
    (m.write a b).read x = if x = a then b else m.read x := by
  unfold Memory.write
  split
  · next h => rw [Memory.read_erase, ← h]
  · exact Memory.read_insert m a x b

/-- A run of stored bytes reads back as stored, and every other address as before. -/
theorem Memory.read_writeBytes (m : Memory) (a x : Nat) (bs : List Byte) :
    (m.writeBytes a bs).read x = if a ≤ x ∧ x < a + bs.length then bs.getD (x - a) 0 else m.read x := by
  induction bs generalizing m a with
  | nil => simp [Memory.writeBytes]
  | cons b bs ih =>
    rw [Memory.writeBytes, ih, Memory.read_write]
    by_cases h : x = a
    · subst h; simp
    · by_cases h2 : a + 1 ≤ x ∧ x < a + 1 + bs.length
      · have h3 : x - a = (x - (a + 1)) + 1 := by omega
        have h4 : a ≤ x ∧ x < a + (b :: bs).length := by simp; omega
        rw [if_pos h2, if_pos h4, h3, List.getD_cons_succ]
      · have h4 : ¬ (a ≤ x ∧ x < a + (b :: bs).length) := by simp; omega
        rw [if_neg h2, if_neg h4, if_neg h]

/-- A read outside a run of stored bytes gives what it gave before. -/
theorem Memory.read_writeBytes_outside (m : Memory) (a x : Nat) (bs : List Byte) (h : x < a ∨ a + bs.length ≤ x) :
    (m.writeBytes a bs).read x = m.read x := by
  rw [Memory.read_writeBytes, if_neg (by omega)]

/-! ### The canonical form -/

theorem Memory.wf_nil : Memory.wf [] := ⟨.nil, by simp⟩

theorem Memory.mem_insert {m : Memory} {a : Nat} {b : Byte} {c : Host.Cell} (h : c ∈ m.insert a b) :
    c = (a, b) ∨ c ∈ m := by
  induction m with
  | nil => simpa [Memory.insert] using h
  | cons d m ih => simp only [Memory.insert] at h; grind

theorem Memory.mem_erase {m : Memory} {a : Nat} {c : Host.Cell} (h : c ∈ m.erase a) : c ∈ m := by
  induction m with
  | nil => exact h
  | cons d m ih => simp only [Memory.erase] at h; grind

theorem Memory.pairwise_insert {m : Memory} (a : Nat) (b : Byte) (h : m.Pairwise (fun c d => c.1 < d.1)) :
    (m.insert a b).Pairwise (fun c d => c.1 < d.1) := by
  induction m with
  | nil => simp [Memory.insert]
  | cons d m ih =>
    obtain ⟨h1, h2⟩ := List.pairwise_cons.1 h
    simp only [Memory.insert]
    split
    · next hlt =>
      refine List.pairwise_cons.2 ⟨fun c hc => ?_, h⟩
      rcases List.mem_cons.1 hc with rfl | hc
      · exact hlt
      · exact Nat.lt_trans hlt (h1 c hc)
    · split
      · next heq => subst heq; exact List.pairwise_cons.2 ⟨h1, h2⟩
      · next hlt hne =>
        refine List.pairwise_cons.2 ⟨fun c hc => ?_, ih h2⟩
        rcases Memory.mem_insert hc with rfl | hc
        · simp; omega
        · exact h1 c hc

theorem Memory.pairwise_erase {m : Memory} (a : Nat) (h : m.Pairwise (fun c d => c.1 < d.1)) :
    (m.erase a).Pairwise (fun c d => c.1 < d.1) := by
  induction m with
  | nil => exact h
  | cons d m ih =>
    obtain ⟨h1, h2⟩ := List.pairwise_cons.1 h
    simp only [Memory.erase]
    split
    · exact ih h2
    · exact List.pairwise_cons.2 ⟨fun c hc => h1 c (Memory.mem_erase hc), ih h2⟩

/-- A store inside RAM keeps the canonical form. -/
theorem Memory.write_wf {m : Memory} {a : Nat} (b : Byte) (h : m.wf) (ha : a < Config.ramSize) : (m.write a b).wf := by
  unfold Memory.write
  split
  · exact ⟨Memory.pairwise_erase a h.1, fun c hc => h.2 c (Memory.mem_erase hc)⟩
  · next hb =>
    refine ⟨Memory.pairwise_insert a b h.1, fun c hc => ?_⟩
    rcases Memory.mem_insert hc with rfl | hc
    · exact ⟨ha, hb⟩
    · exact h.2 c hc

/-- Stores of a run of bytes inside RAM keep the canonical form. -/
theorem Memory.writeBytes_wf {m : Memory} {a : Nat} {bs : List Byte} (h : m.wf) (ha : a + bs.length ≤ Config.ramSize) :
    (m.writeBytes a bs).wf := by
  induction bs generalizing m a with
  | nil => exact h
  | cons b bs ih =>
    simp only [List.length_cons] at ha
    exact ih (Memory.write_wf b h (by omega)) (by omega)

/-! ### The bounds check -/

/-- An access passes the check exactly when it is empty or ends inside RAM (20_memory.md R68). -/
theorem rangeFault_eq_none (base len : Nat) : rangeFault base len = none ↔ len = 0 ∨ base + len ≤ Config.ramSize := by
  unfold rangeFault
  split <;> simp <;> omega

/-- An access that fails the check reports its highest address, and is not empty. -/
theorem rangeFault_eq_some {base len : Nat} {f : Fault} (h : rangeFault base len = some f) :
    f = .addressOutOfRange (base + len - 1) ∧ 0 < len ∧ Config.ramSize < base + len := by
  unfold rangeFault at h
  split at h <;> simp at h
  exact ⟨h.symm, by omega, by omega⟩

end Sys2Proof.Machine
end

