-- ==== Sys2Proof/Laws/State.lean ====
section
/-! SUPPORT. One lemma per field per update of the state, each true by definition: what the update writes, and that it
leaves every other field alone. No later proof unfolds a record update. -/

namespace Sys2Proof.Machine

variable (s : State)

/-! ### writeV -/

@[simp] theorem State.writeV_v (x : Reg) (b : Byte) : (s.writeV x b).v = s.v.set x b := rfl
@[simp] theorem State.writeV_i (x : Reg) (b : Byte) : (s.writeV x b).i = s.i := rfl
@[simp] theorem State.writeV_pc (x : Reg) (b : Byte) : (s.writeV x b).pc = s.pc := rfl
@[simp] theorem State.writeV_stack (x : Reg) (b : Byte) : (s.writeV x b).stack = s.stack := rfl
@[simp] theorem State.writeV_sp (x : Reg) (b : Byte) : (s.writeV x b).sp = s.sp := rfl
@[simp] theorem State.writeV_dt (x : Reg) (b : Byte) : (s.writeV x b).dt = s.dt := rfl
@[simp] theorem State.writeV_st (x : Reg) (b : Byte) : (s.writeV x b).st = s.st := rfl
@[simp] theorem State.writeV_fb (x : Reg) (b : Byte) : (s.writeV x b).fb = s.fb := rfl
@[simp] theorem State.writeV_keys (x : Reg) (b : Byte) : (s.writeV x b).keys = s.keys := rfl
@[simp] theorem State.writeV_paused (x : Reg) (b : Byte) : (s.writeV x b).paused = s.paused := rfl
@[simp] theorem State.writeV_waiting (x : Reg) (b : Byte) : (s.writeV x b).waiting = s.waiting := rfl
@[simp] theorem State.writeV_keyReg (x : Reg) (b : Byte) : (s.writeV x b).keyReg = s.keyReg := rfl
@[simp] theorem State.writeV_drawFlag (x : Reg) (b : Byte) : (s.writeV x b).drawFlag = s.drawFlag := rfl
@[simp] theorem State.writeV_lastOp (x : Reg) (b : Byte) : (s.writeV x b).lastOp = s.lastOp := rfl
@[simp] theorem State.writeV_speed (x : Reg) (b : Byte) : (s.writeV x b).speed = s.speed := rfl
@[simp] theorem State.writeV_mem (x : Reg) (b : Byte) : (s.writeV x b).mem = s.mem := rfl
@[simp] theorem State.writeV_draws (x : Reg) (b : Byte) : (s.writeV x b).draws = s.draws := rfl

/-! ### setI -/

@[simp] theorem State.setI_v (n : Nat) : (s.setI n).v = s.v := rfl
@[simp] theorem State.setI_i (n : Nat) : (s.setI n).i = BitVec.ofNat 12 n := rfl
@[simp] theorem State.setI_pc (n : Nat) : (s.setI n).pc = s.pc := rfl
@[simp] theorem State.setI_stack (n : Nat) : (s.setI n).stack = s.stack := rfl
@[simp] theorem State.setI_sp (n : Nat) : (s.setI n).sp = s.sp := rfl
@[simp] theorem State.setI_dt (n : Nat) : (s.setI n).dt = s.dt := rfl
@[simp] theorem State.setI_st (n : Nat) : (s.setI n).st = s.st := rfl
@[simp] theorem State.setI_fb (n : Nat) : (s.setI n).fb = s.fb := rfl
@[simp] theorem State.setI_keys (n : Nat) : (s.setI n).keys = s.keys := rfl
@[simp] theorem State.setI_paused (n : Nat) : (s.setI n).paused = s.paused := rfl
@[simp] theorem State.setI_waiting (n : Nat) : (s.setI n).waiting = s.waiting := rfl
@[simp] theorem State.setI_keyReg (n : Nat) : (s.setI n).keyReg = s.keyReg := rfl
@[simp] theorem State.setI_drawFlag (n : Nat) : (s.setI n).drawFlag = s.drawFlag := rfl
@[simp] theorem State.setI_lastOp (n : Nat) : (s.setI n).lastOp = s.lastOp := rfl
@[simp] theorem State.setI_speed (n : Nat) : (s.setI n).speed = s.speed := rfl
@[simp] theorem State.setI_mem (n : Nat) : (s.setI n).mem = s.mem := rfl
@[simp] theorem State.setI_draws (n : Nat) : (s.setI n).draws = s.draws := rfl

/-! ### setPc -/

@[simp] theorem State.setPc_v (n : Nat) : (s.setPc n).v = s.v := rfl
@[simp] theorem State.setPc_i (n : Nat) : (s.setPc n).i = s.i := rfl
@[simp] theorem State.setPc_pc (n : Nat) : (s.setPc n).pc = BitVec.ofNat 12 n := rfl
@[simp] theorem State.setPc_stack (n : Nat) : (s.setPc n).stack = s.stack := rfl
@[simp] theorem State.setPc_sp (n : Nat) : (s.setPc n).sp = s.sp := rfl
@[simp] theorem State.setPc_dt (n : Nat) : (s.setPc n).dt = s.dt := rfl
@[simp] theorem State.setPc_st (n : Nat) : (s.setPc n).st = s.st := rfl
@[simp] theorem State.setPc_fb (n : Nat) : (s.setPc n).fb = s.fb := rfl
@[simp] theorem State.setPc_keys (n : Nat) : (s.setPc n).keys = s.keys := rfl
@[simp] theorem State.setPc_paused (n : Nat) : (s.setPc n).paused = s.paused := rfl
@[simp] theorem State.setPc_waiting (n : Nat) : (s.setPc n).waiting = s.waiting := rfl
@[simp] theorem State.setPc_keyReg (n : Nat) : (s.setPc n).keyReg = s.keyReg := rfl
@[simp] theorem State.setPc_drawFlag (n : Nat) : (s.setPc n).drawFlag = s.drawFlag := rfl
@[simp] theorem State.setPc_lastOp (n : Nat) : (s.setPc n).lastOp = s.lastOp := rfl
@[simp] theorem State.setPc_speed (n : Nat) : (s.setPc n).speed = s.speed := rfl
@[simp] theorem State.setPc_mem (n : Nat) : (s.setPc n).mem = s.mem := rfl
@[simp] theorem State.setPc_draws (n : Nat) : (s.setPc n).draws = s.draws := rfl

/-! ### setDt -/

@[simp] theorem State.setDt_v (b : Byte) : (s.setDt b).v = s.v := rfl
@[simp] theorem State.setDt_i (b : Byte) : (s.setDt b).i = s.i := rfl
@[simp] theorem State.setDt_pc (b : Byte) : (s.setDt b).pc = s.pc := rfl
@[simp] theorem State.setDt_stack (b : Byte) : (s.setDt b).stack = s.stack := rfl
@[simp] theorem State.setDt_sp (b : Byte) : (s.setDt b).sp = s.sp := rfl
@[simp] theorem State.setDt_dt (b : Byte) : (s.setDt b).dt = b := rfl
@[simp] theorem State.setDt_st (b : Byte) : (s.setDt b).st = s.st := rfl
@[simp] theorem State.setDt_fb (b : Byte) : (s.setDt b).fb = s.fb := rfl
@[simp] theorem State.setDt_keys (b : Byte) : (s.setDt b).keys = s.keys := rfl
@[simp] theorem State.setDt_paused (b : Byte) : (s.setDt b).paused = s.paused := rfl
@[simp] theorem State.setDt_waiting (b : Byte) : (s.setDt b).waiting = s.waiting := rfl
@[simp] theorem State.setDt_keyReg (b : Byte) : (s.setDt b).keyReg = s.keyReg := rfl
@[simp] theorem State.setDt_drawFlag (b : Byte) : (s.setDt b).drawFlag = s.drawFlag := rfl
@[simp] theorem State.setDt_lastOp (b : Byte) : (s.setDt b).lastOp = s.lastOp := rfl
@[simp] theorem State.setDt_speed (b : Byte) : (s.setDt b).speed = s.speed := rfl
@[simp] theorem State.setDt_mem (b : Byte) : (s.setDt b).mem = s.mem := rfl
@[simp] theorem State.setDt_draws (b : Byte) : (s.setDt b).draws = s.draws := rfl

/-! ### setSt -/

@[simp] theorem State.setSt_v (b : Byte) : (s.setSt b).v = s.v := rfl
@[simp] theorem State.setSt_i (b : Byte) : (s.setSt b).i = s.i := rfl
@[simp] theorem State.setSt_pc (b : Byte) : (s.setSt b).pc = s.pc := rfl
@[simp] theorem State.setSt_stack (b : Byte) : (s.setSt b).stack = s.stack := rfl
@[simp] theorem State.setSt_sp (b : Byte) : (s.setSt b).sp = s.sp := rfl
@[simp] theorem State.setSt_dt (b : Byte) : (s.setSt b).dt = s.dt := rfl
@[simp] theorem State.setSt_st (b : Byte) : (s.setSt b).st = b := rfl
@[simp] theorem State.setSt_fb (b : Byte) : (s.setSt b).fb = s.fb := rfl
@[simp] theorem State.setSt_keys (b : Byte) : (s.setSt b).keys = s.keys := rfl
@[simp] theorem State.setSt_paused (b : Byte) : (s.setSt b).paused = s.paused := rfl
@[simp] theorem State.setSt_waiting (b : Byte) : (s.setSt b).waiting = s.waiting := rfl
@[simp] theorem State.setSt_keyReg (b : Byte) : (s.setSt b).keyReg = s.keyReg := rfl
@[simp] theorem State.setSt_drawFlag (b : Byte) : (s.setSt b).drawFlag = s.drawFlag := rfl
@[simp] theorem State.setSt_lastOp (b : Byte) : (s.setSt b).lastOp = s.lastOp := rfl
@[simp] theorem State.setSt_speed (b : Byte) : (s.setSt b).speed = s.speed := rfl
@[simp] theorem State.setSt_mem (b : Byte) : (s.setSt b).mem = s.mem := rfl
@[simp] theorem State.setSt_draws (b : Byte) : (s.setSt b).draws = s.draws := rfl

/-! ### awaitKey -/

@[simp] theorem State.awaitKey_v (x : Reg) : (s.awaitKey x).v = s.v := rfl
@[simp] theorem State.awaitKey_i (x : Reg) : (s.awaitKey x).i = s.i := rfl
@[simp] theorem State.awaitKey_pc (x : Reg) : (s.awaitKey x).pc = s.pc := rfl
@[simp] theorem State.awaitKey_stack (x : Reg) : (s.awaitKey x).stack = s.stack := rfl
@[simp] theorem State.awaitKey_sp (x : Reg) : (s.awaitKey x).sp = s.sp := rfl
@[simp] theorem State.awaitKey_dt (x : Reg) : (s.awaitKey x).dt = s.dt := rfl
@[simp] theorem State.awaitKey_st (x : Reg) : (s.awaitKey x).st = s.st := rfl
@[simp] theorem State.awaitKey_fb (x : Reg) : (s.awaitKey x).fb = s.fb := rfl
@[simp] theorem State.awaitKey_keys (x : Reg) : (s.awaitKey x).keys = s.keys := rfl
@[simp] theorem State.awaitKey_paused (x : Reg) : (s.awaitKey x).paused = s.paused := rfl
@[simp] theorem State.awaitKey_waiting (x : Reg) : (s.awaitKey x).waiting = true := rfl
@[simp] theorem State.awaitKey_keyReg (x : Reg) : (s.awaitKey x).keyReg = x := rfl
@[simp] theorem State.awaitKey_drawFlag (x : Reg) : (s.awaitKey x).drawFlag = s.drawFlag := rfl
@[simp] theorem State.awaitKey_lastOp (x : Reg) : (s.awaitKey x).lastOp = s.lastOp := rfl
@[simp] theorem State.awaitKey_speed (x : Reg) : (s.awaitKey x).speed = s.speed := rfl
@[simp] theorem State.awaitKey_mem (x : Reg) : (s.awaitKey x).mem = s.mem := rfl
@[simp] theorem State.awaitKey_draws (x : Reg) : (s.awaitKey x).draws = s.draws := rfl

/-! ### present -/

@[simp] theorem State.present_v (fb : Screen) : (s.present fb).v = s.v := rfl
@[simp] theorem State.present_i (fb : Screen) : (s.present fb).i = s.i := rfl
@[simp] theorem State.present_pc (fb : Screen) : (s.present fb).pc = s.pc := rfl
@[simp] theorem State.present_stack (fb : Screen) : (s.present fb).stack = s.stack := rfl
@[simp] theorem State.present_sp (fb : Screen) : (s.present fb).sp = s.sp := rfl
@[simp] theorem State.present_dt (fb : Screen) : (s.present fb).dt = s.dt := rfl
@[simp] theorem State.present_st (fb : Screen) : (s.present fb).st = s.st := rfl
@[simp] theorem State.present_fb (fb : Screen) : (s.present fb).fb = fb := rfl
@[simp] theorem State.present_keys (fb : Screen) : (s.present fb).keys = s.keys := rfl
@[simp] theorem State.present_paused (fb : Screen) : (s.present fb).paused = s.paused := rfl
@[simp] theorem State.present_waiting (fb : Screen) : (s.present fb).waiting = s.waiting := rfl
@[simp] theorem State.present_keyReg (fb : Screen) : (s.present fb).keyReg = s.keyReg := rfl
@[simp] theorem State.present_drawFlag (fb : Screen) : (s.present fb).drawFlag = true := rfl
@[simp] theorem State.present_lastOp (fb : Screen) : (s.present fb).lastOp = s.lastOp := rfl
@[simp] theorem State.present_speed (fb : Screen) : (s.present fb).speed = s.speed := rfl
@[simp] theorem State.present_mem (fb : Screen) : (s.present fb).mem = s.mem := rfl
@[simp] theorem State.present_draws (fb : Screen) : (s.present fb).draws = s.draws := rfl

/-! ### setMem -/

@[simp] theorem State.setMem_v (m : Memory) : (s.setMem m).v = s.v := rfl
@[simp] theorem State.setMem_i (m : Memory) : (s.setMem m).i = s.i := rfl
@[simp] theorem State.setMem_pc (m : Memory) : (s.setMem m).pc = s.pc := rfl
@[simp] theorem State.setMem_stack (m : Memory) : (s.setMem m).stack = s.stack := rfl
@[simp] theorem State.setMem_sp (m : Memory) : (s.setMem m).sp = s.sp := rfl
@[simp] theorem State.setMem_dt (m : Memory) : (s.setMem m).dt = s.dt := rfl
@[simp] theorem State.setMem_st (m : Memory) : (s.setMem m).st = s.st := rfl
@[simp] theorem State.setMem_fb (m : Memory) : (s.setMem m).fb = s.fb := rfl
@[simp] theorem State.setMem_keys (m : Memory) : (s.setMem m).keys = s.keys := rfl
@[simp] theorem State.setMem_paused (m : Memory) : (s.setMem m).paused = s.paused := rfl
@[simp] theorem State.setMem_waiting (m : Memory) : (s.setMem m).waiting = s.waiting := rfl
@[simp] theorem State.setMem_keyReg (m : Memory) : (s.setMem m).keyReg = s.keyReg := rfl
@[simp] theorem State.setMem_drawFlag (m : Memory) : (s.setMem m).drawFlag = s.drawFlag := rfl
@[simp] theorem State.setMem_lastOp (m : Memory) : (s.setMem m).lastOp = s.lastOp := rfl
@[simp] theorem State.setMem_speed (m : Memory) : (s.setMem m).speed = s.speed := rfl
@[simp] theorem State.setMem_mem (m : Memory) : (s.setMem m).mem = m := rfl
@[simp] theorem State.setMem_draws (m : Memory) : (s.setMem m).draws = s.draws := rfl

/-! ### countDraw -/

@[simp] theorem State.countDraw_v : (s.countDraw).v = s.v := rfl
@[simp] theorem State.countDraw_i : (s.countDraw).i = s.i := rfl
@[simp] theorem State.countDraw_pc : (s.countDraw).pc = s.pc := rfl
@[simp] theorem State.countDraw_stack : (s.countDraw).stack = s.stack := rfl
@[simp] theorem State.countDraw_sp : (s.countDraw).sp = s.sp := rfl
@[simp] theorem State.countDraw_dt : (s.countDraw).dt = s.dt := rfl
@[simp] theorem State.countDraw_st : (s.countDraw).st = s.st := rfl
@[simp] theorem State.countDraw_fb : (s.countDraw).fb = s.fb := rfl
@[simp] theorem State.countDraw_keys : (s.countDraw).keys = s.keys := rfl
@[simp] theorem State.countDraw_paused : (s.countDraw).paused = s.paused := rfl
@[simp] theorem State.countDraw_waiting : (s.countDraw).waiting = s.waiting := rfl
@[simp] theorem State.countDraw_keyReg : (s.countDraw).keyReg = s.keyReg := rfl
@[simp] theorem State.countDraw_drawFlag : (s.countDraw).drawFlag = s.drawFlag := rfl
@[simp] theorem State.countDraw_lastOp : (s.countDraw).lastOp = s.lastOp := rfl
@[simp] theorem State.countDraw_speed : (s.countDraw).speed = s.speed := rfl
@[simp] theorem State.countDraw_mem : (s.countDraw).mem = s.mem := rfl
@[simp] theorem State.countDraw_draws : (s.countDraw).draws = s.draws + 1 := rfl

/-! ### push -/

@[simp] theorem State.push_v (a : Addr) : (s.push a).v = s.v := rfl
@[simp] theorem State.push_i (a : Addr) : (s.push a).i = s.i := rfl
@[simp] theorem State.push_pc (a : Addr) : (s.push a).pc = s.pc := rfl
@[simp] theorem State.push_stack (a : Addr) : (s.push a).stack = s.stack.setIfInBounds s.sp.val a := rfl
@[simp] theorem State.push_sp (a : Addr) : (s.push a).sp = s.sp + 1 := rfl
@[simp] theorem State.push_dt (a : Addr) : (s.push a).dt = s.dt := rfl
@[simp] theorem State.push_st (a : Addr) : (s.push a).st = s.st := rfl
@[simp] theorem State.push_fb (a : Addr) : (s.push a).fb = s.fb := rfl
@[simp] theorem State.push_keys (a : Addr) : (s.push a).keys = s.keys := rfl
@[simp] theorem State.push_paused (a : Addr) : (s.push a).paused = s.paused := rfl
@[simp] theorem State.push_waiting (a : Addr) : (s.push a).waiting = s.waiting := rfl
@[simp] theorem State.push_keyReg (a : Addr) : (s.push a).keyReg = s.keyReg := rfl
@[simp] theorem State.push_drawFlag (a : Addr) : (s.push a).drawFlag = s.drawFlag := rfl
@[simp] theorem State.push_lastOp (a : Addr) : (s.push a).lastOp = s.lastOp := rfl
@[simp] theorem State.push_speed (a : Addr) : (s.push a).speed = s.speed := rfl
@[simp] theorem State.push_mem (a : Addr) : (s.push a).mem = s.mem := rfl
@[simp] theorem State.push_draws (a : Addr) : (s.push a).draws = s.draws := rfl

/-! ### pop -/

@[simp] theorem State.pop_v : (s.pop).v = s.v := rfl
@[simp] theorem State.pop_i : (s.pop).i = s.i := rfl
@[simp] theorem State.pop_pc : (s.pop).pc = s.pc := rfl
@[simp] theorem State.pop_stack : (s.pop).stack = s.stack := rfl
@[simp] theorem State.pop_sp : (s.pop).sp = ⟨s.sp.val - 1, by omega⟩ := rfl
@[simp] theorem State.pop_dt : (s.pop).dt = s.dt := rfl
@[simp] theorem State.pop_st : (s.pop).st = s.st := rfl
@[simp] theorem State.pop_fb : (s.pop).fb = s.fb := rfl
@[simp] theorem State.pop_keys : (s.pop).keys = s.keys := rfl
@[simp] theorem State.pop_paused : (s.pop).paused = s.paused := rfl
@[simp] theorem State.pop_waiting : (s.pop).waiting = s.waiting := rfl
@[simp] theorem State.pop_keyReg : (s.pop).keyReg = s.keyReg := rfl
@[simp] theorem State.pop_drawFlag : (s.pop).drawFlag = s.drawFlag := rfl
@[simp] theorem State.pop_lastOp : (s.pop).lastOp = s.lastOp := rfl
@[simp] theorem State.pop_speed : (s.pop).speed = s.speed := rfl
@[simp] theorem State.pop_mem : (s.pop).mem = s.mem := rfl
@[simp] theorem State.pop_draws : (s.pop).draws = s.draws := rfl

/-! ### skipIf: only PC can change (41_control_flow.md R148) -/

@[simp] theorem State.skipIf_v (c : Bool) : (s.skipIf c).v = s.v := by cases c <;> rfl
@[simp] theorem State.skipIf_i (c : Bool) : (s.skipIf c).i = s.i := by cases c <;> rfl
@[simp] theorem State.skipIf_pc (c : Bool) :
    (s.skipIf c).pc = if c then BitVec.ofNat 12 (s.pc.toNat + 2) else s.pc := by cases c <;> rfl
@[simp] theorem State.skipIf_stack (c : Bool) : (s.skipIf c).stack = s.stack := by cases c <;> rfl
@[simp] theorem State.skipIf_sp (c : Bool) : (s.skipIf c).sp = s.sp := by cases c <;> rfl
@[simp] theorem State.skipIf_dt (c : Bool) : (s.skipIf c).dt = s.dt := by cases c <;> rfl
@[simp] theorem State.skipIf_st (c : Bool) : (s.skipIf c).st = s.st := by cases c <;> rfl
@[simp] theorem State.skipIf_fb (c : Bool) : (s.skipIf c).fb = s.fb := by cases c <;> rfl
@[simp] theorem State.skipIf_keys (c : Bool) : (s.skipIf c).keys = s.keys := by cases c <;> rfl
@[simp] theorem State.skipIf_paused (c : Bool) : (s.skipIf c).paused = s.paused := by cases c <;> rfl
@[simp] theorem State.skipIf_waiting (c : Bool) : (s.skipIf c).waiting = s.waiting := by cases c <;> rfl
@[simp] theorem State.skipIf_keyReg (c : Bool) : (s.skipIf c).keyReg = s.keyReg := by cases c <;> rfl
@[simp] theorem State.skipIf_drawFlag (c : Bool) : (s.skipIf c).drawFlag = s.drawFlag := by cases c <;> rfl
@[simp] theorem State.skipIf_lastOp (c : Bool) : (s.skipIf c).lastOp = s.lastOp := by cases c <;> rfl
@[simp] theorem State.skipIf_speed (c : Bool) : (s.skipIf c).speed = s.speed := by cases c <;> rfl
@[simp] theorem State.skipIf_mem (c : Bool) : (s.skipIf c).mem = s.mem := by cases c <;> rfl
@[simp] theorem State.skipIf_draws (c : Bool) : (s.skipIf c).draws = s.draws := by cases c <;> rfl

/-! ### loadFrom: only the V registers can change (43_index_memory.md R195) -/

@[simp] theorem State.loadFrom_i (base r n : Nat) : (s.loadFrom base r n).i = s.i := by
  induction n generalizing s r with
  | zero => rfl
  | succ n ih => rw [State.loadFrom, ih]; rfl
@[simp] theorem State.loadFrom_pc (base r n : Nat) : (s.loadFrom base r n).pc = s.pc := by
  induction n generalizing s r with
  | zero => rfl
  | succ n ih => rw [State.loadFrom, ih]; rfl
@[simp] theorem State.loadFrom_stack (base r n : Nat) : (s.loadFrom base r n).stack = s.stack := by
  induction n generalizing s r with
  | zero => rfl
  | succ n ih => rw [State.loadFrom, ih]; rfl
@[simp] theorem State.loadFrom_sp (base r n : Nat) : (s.loadFrom base r n).sp = s.sp := by
  induction n generalizing s r with
  | zero => rfl
  | succ n ih => rw [State.loadFrom, ih]; rfl
@[simp] theorem State.loadFrom_dt (base r n : Nat) : (s.loadFrom base r n).dt = s.dt := by
  induction n generalizing s r with
  | zero => rfl
  | succ n ih => rw [State.loadFrom, ih]; rfl
@[simp] theorem State.loadFrom_st (base r n : Nat) : (s.loadFrom base r n).st = s.st := by
  induction n generalizing s r with
  | zero => rfl
  | succ n ih => rw [State.loadFrom, ih]; rfl
@[simp] theorem State.loadFrom_fb (base r n : Nat) : (s.loadFrom base r n).fb = s.fb := by
  induction n generalizing s r with
  | zero => rfl
  | succ n ih => rw [State.loadFrom, ih]; rfl
@[simp] theorem State.loadFrom_keys (base r n : Nat) : (s.loadFrom base r n).keys = s.keys := by
  induction n generalizing s r with
  | zero => rfl
  | succ n ih => rw [State.loadFrom, ih]; rfl
@[simp] theorem State.loadFrom_paused (base r n : Nat) : (s.loadFrom base r n).paused = s.paused := by
  induction n generalizing s r with
  | zero => rfl
  | succ n ih => rw [State.loadFrom, ih]; rfl
@[simp] theorem State.loadFrom_waiting (base r n : Nat) : (s.loadFrom base r n).waiting = s.waiting := by
  induction n generalizing s r with
  | zero => rfl
  | succ n ih => rw [State.loadFrom, ih]; rfl
@[simp] theorem State.loadFrom_keyReg (base r n : Nat) : (s.loadFrom base r n).keyReg = s.keyReg := by
  induction n generalizing s r with
  | zero => rfl
  | succ n ih => rw [State.loadFrom, ih]; rfl
@[simp] theorem State.loadFrom_drawFlag (base r n : Nat) : (s.loadFrom base r n).drawFlag = s.drawFlag := by
  induction n generalizing s r with
  | zero => rfl
  | succ n ih => rw [State.loadFrom, ih]; rfl
@[simp] theorem State.loadFrom_lastOp (base r n : Nat) : (s.loadFrom base r n).lastOp = s.lastOp := by
  induction n generalizing s r with
  | zero => rfl
  | succ n ih => rw [State.loadFrom, ih]; rfl
@[simp] theorem State.loadFrom_speed (base r n : Nat) : (s.loadFrom base r n).speed = s.speed := by
  induction n generalizing s r with
  | zero => rfl
  | succ n ih => rw [State.loadFrom, ih]; rfl
@[simp] theorem State.loadFrom_mem (base r n : Nat) : (s.loadFrom base r n).mem = s.mem := by
  induction n generalizing s r with
  | zero => rfl
  | succ n ih => rw [State.loadFrom, ih]; rfl
@[simp] theorem State.loadFrom_draws (base r n : Nat) : (s.loadFrom base r n).draws = s.draws := by
  induction n generalizing s r with
  | zero => rfl
  | succ n ih => rw [State.loadFrom, ih]; rfl

end Sys2Proof.Machine
end

