-- ==== Sys2Proof/Laws/Ops.lean ====
section
/-! SUPPORT. What each shared operation does, said once: register reads after writes, checked accesses, stores and loads
of runs of bytes, the fetch, and placing a word. -/

namespace Sys2Proof.Machine

/-! ### Registers (10_state.md R20) -/

theorem State.readV_eq {s t : State} (h : t.v = s.v) (r : Reg) : t.readV r = s.readV r := by
  simp [State.readV, h]

@[simp] theorem State.readV_writeV (s : State) (x r : Reg) (b : Byte) :
    (s.writeV x b).readV r = if r = x then b else s.readV r := by
  simp only [State.readV, State.writeV_v, Fin.getElem_fin, Vector.getElem_set, Fin.ext_iff, eq_comm]

/-- The flag is what remains in VF; Vx holds the result unless it is VF (40_fetch_step_cycle.md R125). -/
@[simp] theorem State.readV_writeResultThenFlag (s : State) (x r : Reg) (res flag : Byte) :
    (s.writeResultThenFlag x res flag).readV r = if r = flagReg then flag else if r = x then res else s.readV r := by
  simp [State.writeResultThenFlag]

@[simp] theorem State.readV_setI (s : State) (n : Nat) (r : Reg) : (s.setI n).readV r = s.readV r := rfl
@[simp] theorem State.readV_setPc (s : State) (n : Nat) (r : Reg) : (s.setPc n).readV r = s.readV r := rfl
@[simp] theorem State.readV_setDt (s : State) (b : Byte) (r : Reg) : (s.setDt b).readV r = s.readV r := rfl
@[simp] theorem State.readV_setSt (s : State) (b : Byte) (r : Reg) : (s.setSt b).readV r = s.readV r := rfl
@[simp] theorem State.readV_awaitKey (s : State) (x r : Reg) : (s.awaitKey x).readV r = s.readV r := rfl
@[simp] theorem State.readV_present (s : State) (fb : Screen) (r : Reg) : (s.present fb).readV r = s.readV r := rfl
@[simp] theorem State.readV_setMem (s : State) (m : Memory) (r : Reg) : (s.setMem m).readV r = s.readV r := rfl
@[simp] theorem State.readV_countDraw (s : State) (r : Reg) : s.countDraw.readV r = s.readV r := rfl
@[simp] theorem State.readV_push (s : State) (a : Addr) (r : Reg) : (s.push a).readV r = s.readV r := rfl
@[simp] theorem State.readV_pop (s : State) (r : Reg) : s.pop.readV r = s.readV r := rfl
@[simp] theorem State.readV_skipIf (s : State) (c : Bool) (r : Reg) : (s.skipIf c).readV r = s.readV r := by
  cases c <;> rfl

/-! ### RAM as the state holds it (20_memory.md R68) -/

theorem State.readByte_eq {s t : State} (h : t.mem = s.mem) (a : Nat) : t.readByte a = s.readByte a := by
  simp [State.readByte, h]

/-- A store of a run of bytes: the bytes at its addresses, and every other address as before. -/
theorem State.readByte_storeBytes (s : State) (base a : Nat) (bs : List Byte) :
    (s.storeBytes base bs).readByte a = if base ≤ a ∧ a < base + bs.length then bs.getD (a - base) 0 else s.readByte a :=
  Memory.read_writeBytes s.mem base a bs

/-- Outside the stored bytes nothing of RAM changes. -/
theorem State.readByte_storeBytes_outside (s : State) (base a : Nat) (bs : List Byte)
    (h : a < base ∨ base + bs.length ≤ a) : (s.storeBytes base bs).readByte a = s.readByte a :=
  Memory.read_writeBytes_outside s.mem base a bs h

/-! ### Checked accesses (20_memory.md R68) -/

/-- Everything a checked access can do: give its state when the access is empty or ends inside RAM, or fault with its
highest address when it does not. -/
theorem accessing_cases (base len : Nat) (t : State) :
    (accessing base len t = .next t ∧ (len = 0 ∨ base + len ≤ Config.ramSize)) ∨
    (accessing base len t = .fault (.addressOutOfRange (base + len - 1)) ∧ 0 < len ∧ Config.ramSize < base + len) := by
  unfold accessing
  cases h : rangeFault base len with
  | none => exact .inl ⟨rfl, (rangeFault_eq_none base len).1 h⟩
  | some f =>
    obtain ⟨rfl, h2⟩ := rangeFault_eq_some h
    exact .inr ⟨rfl, h2⟩

theorem accessing_next {base len : Nat} {t : State} (h : len = 0 ∨ base + len ≤ Config.ramSize) :
    accessing base len t = .next t := by
  rcases accessing_cases base len t with ⟨h1, _⟩ | ⟨_, h2⟩
  · exact h1
  · omega

theorem accessing_fault {base len : Nat} {t : State} (h : 0 < len) (h2 : Config.ramSize < base + len) :
    accessing base len t = .fault (.addressOutOfRange (base + len - 1)) := by
  rcases accessing_cases base len t with ⟨_, h1⟩ | ⟨h1, _⟩
  · omega
  · exact h1

/-- If a checked access answers a next state, it is the one it was given, and the access ends inside RAM. -/
theorem accessing_inv {base len : Nat} {t u : State} (h : accessing base len t = .next u) :
    u = t ∧ (len = 0 ∨ base + len ≤ Config.ramSize) := by
  rcases accessing_cases base len t with ⟨h1, h2⟩ | ⟨h1, _⟩
  · exact ⟨by rw [h1] at h; injection h with h; exact h.symm, h2⟩
  · rw [h1] at h; cases h

/-! ### The bytes that FX33 and FX55 store, and the registers that FX65 loads -/

@[simp] theorem bcdDigits_length (b : Byte) : (bcdDigits b).length = 3 := rfl

@[simp] theorem State.firstRegs_length (s : State) (x : Reg) : (s.firstRegs x).length = x.val + 1 := by
  simp [State.firstRegs]

/-- The r-th byte that FX55 stores is V[r] (43_index_memory.md R194). -/
theorem State.firstRegs_getD (s : State) (x r : Reg) (h : r ≤ x) : (s.firstRegs x).getD r.val 0 = s.readV r := by
  have h1 : r.val < (s.firstRegs x).length := by simp; omega
  rw [List.getD_eq_getElem?_getD, List.getElem?_eq_getElem h1]
  simp [State.firstRegs, State.readV]

/-- FX65's loop: each register from `r` on, `n` of them, receives its byte, and the others keep theirs (R195). -/
theorem State.readV_loadFrom (s : State) (base r n : Nat) (h : r + n ≤ 16) (q : Reg) :
    (s.loadFrom base r n).readV q =
      if r ≤ q.val ∧ q.val < r + n then s.readByte (base + q.val) else s.readV q := by
  induction n generalizing s r with
  | zero => rw [if_neg (by omega)]; rfl
  | succ n ih =>
    have hr : (Fin.ofNat 16 r).val = r := Nat.mod_eq_of_lt (by omega)
    have hm : ∀ a, (s.writeV (Fin.ofNat 16 r) (s.readByte (base + r))).readByte a = s.readByte a := fun _ => rfl
    rw [State.loadFrom, ih _ _ (by omega), hm, State.readV_writeV]
    simp only [Fin.ext_iff, hr]
    by_cases h1 : q.val = r
    · simp [h1]
    · by_cases h2 : r + 1 ≤ q.val ∧ q.val < r + 1 + n
      · rw [if_pos h2, if_pos (by omega)]
      · rw [if_neg h2, if_neg h1, if_neg (by omega)]

/-! ### Fetch (40_fetch_step_cycle.md R120) -/

/-- Everything the fetch can do: fault at PC = 0xFFF, or give the word and the advanced state. -/
theorem fetch_cases (s : State) :
    (s.pc = 0xFFF#12 ∧ fetch s = .error (.addressOutOfRange 0x1000)) ∨
    (s.pc ≠ 0xFFF#12 ∧ fetch s = .ok (s.wordAtPc, s.fetched)) := by
  have hpc : s.pc = 0xFFF#12 ↔ s.pc.toNat = 0xFFF := by
    rw [← BitVec.toNat_inj]; rfl
  have hlt := s.pc.isLt
  unfold fetch
  cases h : rangeFault s.pc.toNat 2 with
  | none =>
    have := (rangeFault_eq_none _ _).1 h
    simp only [Config.ramSize] at this
    exact .inr ⟨fun e => by have := hpc.1 e; omega, rfl⟩
  | some f =>
    obtain ⟨rfl, _, h2⟩ := rangeFault_eq_some h
    simp only [Config.ramSize] at h2
    have : s.pc.toNat = 0xFFF := by omega
    exact .inl ⟨hpc.2 this, by simp [this]⟩

theorem fetch_ok {s : State} (h : s.pc ≠ 0xFFF#12) : fetch s = .ok (s.wordAtPc, s.fetched) := by
  rcases fetch_cases s with ⟨h1, _⟩ | ⟨_, h2⟩
  · exact absurd h1 h
  · exact h2

theorem fetch_error {s : State} (h : s.pc = 0xFFF#12) : fetch s = .error (.addressOutOfRange 0x1000) := by
  rcases fetch_cases s with ⟨_, h2⟩ | ⟨h1, _⟩
  · exact h2
  · exact absurd h h1

end Sys2Proof.Machine
end

