-- ==== Sys2Proof/Laws/Flags.lean ====
section
/-! SUPPORT. What each flag computation and each stack check says, on integers. -/

namespace Sys2Proof.Machine

/-- A flag is 0 or 1 (10_state.md R21). -/
@[simp] theorem flagByte_toNat (f : Bool) : (flagByte f).toNat = if f then 1 else 0 := by cases f <;> rfl

theorem carry_iff (a b : Byte) : carry a b = true ↔ 255 < a.toNat + b.toNat := decide_eq_true_iff

theorem strictlyGreater_iff (a b : Byte) : strictlyGreater a b = true ↔ b.toNat < a.toNat := decide_eq_true_iff

theorem bit0_iff (a : Byte) : bit0 a = true ↔ a.toNat % 2 = 1 := beq_iff_eq

theorem bit7_iff (a : Byte) : bit7 a = true ↔ 128 ≤ a.toNat := decide_eq_true_iff

theorem indexOverflow_iff (t : Nat) : indexOverflow t = true ↔ 0xFFF < t := decide_eq_true_iff

/-- 00EE reports an underflow exactly with SP = 0 (41_control_flow.md R140). -/
theorem retDiagnostic_eq (s : State) : retDiagnostic s = if s.sp.val = 0 then some .stackUnderflow else none := by
  have h : s.sp = 0 ↔ s.sp.val = 0 := Fin.ext_iff
  unfold retDiagnostic
  by_cases hs : s.sp = 0
  · rw [if_pos hs, if_pos (h.1 hs)]
  · rw [if_neg hs, if_neg (fun e => hs (h.2 e))]

/-- 2NNN reports an overflow exactly with SP = 16 (R142). -/
theorem callDiagnostic_eq (s : State) : callDiagnostic s = if s.sp.val = 16 then some .stackOverflow else none := by
  have h : s.sp = 16 ↔ s.sp.val = 16 := Fin.ext_iff
  unfold callDiagnostic
  by_cases hs : s.sp = 16
  · rw [if_pos hs, if_pos (h.1 hs)]
  · rw [if_neg hs, if_neg (fun e => hs (h.2 e))]

end Sys2Proof.Machine
end

