-- ==== Sys2Proof/Laws/PerInstr.lean ====
section
/-! SUPPORT. Per instruction: decoding the word of a well-formed instruction gives it back (30_encoding.md R91, R92, R95). -/

namespace Sys2Proof.Laws.RoundTrip

/-- The word of the instruction decodes to it. -/
def Statement (i : Instr) : Prop := i.WellFormed → decodeWord (encode i) = some i

/-! ### The fields of the three formats (R92) -/

theorem major_wordNNN {m nnn : Nat} (hm : m < 16) (h : nnn < 4096) : major (wordNNN m nnn) = m := by
  simp [major, field, wordNNN]; omega

theorem fieldNNN_wordNNN {m nnn : Nat} (h : nnn < 4096) : fieldNNN (wordNNN m nnn) = nnn := by
  simp [fieldNNN, field, wordNNN]; omega

theorem major_wordXNN {m nn : Nat} (x : Reg) (hm : m < 16) (h : nn < 256) : major (wordXNN m x nn) = m := by
  simp [major, field, wordXNN]; omega

theorem fieldX_wordXNN {m nn : Nat} (x : Reg) (h : nn < 256) : fieldX (wordXNN m x nn) = x := by
  simp [fieldX, field, wordXNN, Fin.ext_iff]; omega

theorem fieldNN_wordXNN {m nn : Nat} (x : Reg) (h : nn < 256) : fieldNN (wordXNN m x nn) = nn := by
  simp [fieldNN, field, wordXNN]; omega

theorem major_wordXYN {m n : Nat} (x y : Reg) (hm : m < 16) (h : n < 16) : major (wordXYN m x y n) = m := by
  simp [major, field, wordXYN]; omega

theorem fieldX_wordXYN {m n : Nat} (x y : Reg) (h : n < 16) : fieldX (wordXYN m x y n) = x := by
  simp [fieldX, field, wordXYN, Fin.ext_iff]; omega

theorem fieldY_wordXYN {m n : Nat} (x y : Reg) (h : n < 16) : fieldY (wordXYN m x y n) = y := by
  simp [fieldY, field, wordXYN, Fin.ext_iff]; omega

theorem fieldN_wordXYN {m n : Nat} (x y : Reg) (h : n < 16) : fieldN (wordXYN m x y n) = n := by
  simp [fieldN, field, wordXYN]; omega

/-! ### The formats, decoded -/

theorem decode_xyf {n : Nat} (x y : Reg) (h : n < 16) :
    decodeWord (wordXYN 0x8 x y n) = decode8 (wordXYN 0x8 x y n) := by
  simp [decodeWord, major_wordXYN x y (by decide : 8 < 16) h]

theorem decode_xff {nn : Nat} (x : Reg) (h : nn < 256) :
    decodeWord (wordXNN 0xF x nn) = decodeF (wordXNN 0xF x nn) := by
  simp [decodeWord, major_wordXNN x (by decide : 15 < 16) h]

/-! ### One lemma an instruction -/

theorem cls : Statement .cls := fun _ => by decide

theorem ret : Statement .ret := fun _ => by decide

theorem jp (nnn : Nat) : Statement (.jp nnn) := fun h => by
  have h : nnn < 4096 := of_decide_eq_true h
  simp [encode, decodeWord, major_wordNNN (by decide : 1 < 16) h, fieldNNN_wordNNN h]

theorem call (nnn : Nat) : Statement (.call nnn) := fun h => by
  have h : nnn < 4096 := of_decide_eq_true h
  simp [encode, decodeWord, major_wordNNN (by decide : 2 < 16) h, fieldNNN_wordNNN h]

theorem seImm (x : Reg) (nn : Nat) : Statement (.seImm x nn) := fun h => by
  have h : nn < 256 := of_decide_eq_true h
  have hm : 3 < 16 := by decide
  simp [encode, decodeWord, major_wordXNN x hm h, fieldX_wordXNN x h, fieldNN_wordXNN x h]

theorem sneImm (x : Reg) (nn : Nat) : Statement (.sneImm x nn) := fun h => by
  have h : nn < 256 := of_decide_eq_true h
  have hm : 4 < 16 := by decide
  simp [encode, decodeWord, major_wordXNN x hm h, fieldX_wordXNN x h, fieldNN_wordXNN x h]

theorem seReg (x y : Reg) : Statement (.seReg x y) := fun _ => by
  have hm : 5 < 16 := by decide
  have h : 0 < 16 := by decide
  simp [encode, decodeWord, major_wordXYN x y hm h, fieldN_wordXYN x y h, fieldX_wordXYN x y h, fieldY_wordXYN x y h]

theorem ldImm (x : Reg) (nn : Nat) : Statement (.ldImm x nn) := fun h => by
  have h : nn < 256 := of_decide_eq_true h
  have hm : 6 < 16 := by decide
  simp [encode, decodeWord, major_wordXNN x hm h, fieldX_wordXNN x h, fieldNN_wordXNN x h]

theorem addImm (x : Reg) (nn : Nat) : Statement (.addImm x nn) := fun h => by
  have h : nn < 256 := of_decide_eq_true h
  have hm : 7 < 16 := by decide
  simp [encode, decodeWord, major_wordXNN x hm h, fieldX_wordXNN x h, fieldNN_wordXNN x h]

theorem ldReg (x y : Reg) : Statement (.ldReg x y) := fun _ => by
  have hm : 8 < 16 := by decide
  have h : 0 < 16 := by decide
  simp [encode, decode_xyf x y h, decode8, fieldN_wordXYN x y h, fieldX_wordXYN x y h, fieldY_wordXYN x y h]

theorem orReg (x y : Reg) : Statement (.orReg x y) := fun _ => by
  have hm : 8 < 16 := by decide
  have h : 1 < 16 := by decide
  simp [encode, decode_xyf x y h, decode8, fieldN_wordXYN x y h, fieldX_wordXYN x y h, fieldY_wordXYN x y h]

theorem andReg (x y : Reg) : Statement (.andReg x y) := fun _ => by
  have hm : 8 < 16 := by decide
  have h : 2 < 16 := by decide
  simp [encode, decode_xyf x y h, decode8, fieldN_wordXYN x y h, fieldX_wordXYN x y h, fieldY_wordXYN x y h]

theorem xorReg (x y : Reg) : Statement (.xorReg x y) := fun _ => by
  have hm : 8 < 16 := by decide
  have h : 3 < 16 := by decide
  simp [encode, decode_xyf x y h, decode8, fieldN_wordXYN x y h, fieldX_wordXYN x y h, fieldY_wordXYN x y h]

theorem addReg (x y : Reg) : Statement (.addReg x y) := fun _ => by
  have hm : 8 < 16 := by decide
  have h : 4 < 16 := by decide
  simp [encode, decode_xyf x y h, decode8, fieldN_wordXYN x y h, fieldX_wordXYN x y h, fieldY_wordXYN x y h]

theorem subReg (x y : Reg) : Statement (.subReg x y) := fun _ => by
  have hm : 8 < 16 := by decide
  have h : 5 < 16 := by decide
  simp [encode, decode_xyf x y h, decode8, fieldN_wordXYN x y h, fieldX_wordXYN x y h, fieldY_wordXYN x y h]

theorem shr (x y : Reg) : Statement (.shr x y) := fun _ => by
  have hm : 8 < 16 := by decide
  have h : 6 < 16 := by decide
  simp [encode, decode_xyf x y h, decode8, fieldN_wordXYN x y h, fieldX_wordXYN x y h, fieldY_wordXYN x y h]

theorem subn (x y : Reg) : Statement (.subn x y) := fun _ => by
  have hm : 8 < 16 := by decide
  have h : 7 < 16 := by decide
  simp [encode, decode_xyf x y h, decode8, fieldN_wordXYN x y h, fieldX_wordXYN x y h, fieldY_wordXYN x y h]

theorem shl (x y : Reg) : Statement (.shl x y) := fun _ => by
  have hm : 8 < 16 := by decide
  have h : 14 < 16 := by decide
  simp [encode, decode_xyf x y h, decode8, fieldN_wordXYN x y h, fieldX_wordXYN x y h, fieldY_wordXYN x y h]

theorem sneReg (x y : Reg) : Statement (.sneReg x y) := fun _ => by
  have hm : 9 < 16 := by decide
  have h : 0 < 16 := by decide
  simp [encode, decodeWord, major_wordXYN x y hm h, fieldN_wordXYN x y h, fieldX_wordXYN x y h, fieldY_wordXYN x y h]

theorem ldI (nnn : Nat) : Statement (.ldI nnn) := fun h => by
  have h : nnn < 4096 := of_decide_eq_true h
  simp [encode, decodeWord, major_wordNNN (by decide : 10 < 16) h, fieldNNN_wordNNN h]

theorem jpV0 (nnn : Nat) : Statement (.jpV0 nnn) := fun h => by
  have h : nnn < 4096 := of_decide_eq_true h
  simp [encode, decodeWord, major_wordNNN (by decide : 11 < 16) h, fieldNNN_wordNNN h]

theorem rnd (x : Reg) (nn : Nat) : Statement (.rnd x nn) := fun h => by
  have h : nn < 256 := of_decide_eq_true h
  have hm : 12 < 16 := by decide
  simp [encode, decodeWord, major_wordXNN x hm h, fieldX_wordXNN x h, fieldNN_wordXNN x h]

theorem drw (x y : Reg) (n : Nat) : Statement (.drw x y n) := fun h => by
  have h : n < 16 := of_decide_eq_true h
  have hm : 13 < 16 := by decide
  simp [encode, decodeWord, major_wordXYN x y hm h, fieldN_wordXYN x y h, fieldX_wordXYN x y h,
    fieldY_wordXYN x y h]

theorem skp (x : Reg) : Statement (.skp x) := fun _ => by
  have hm : 14 < 16 := by decide
  have h : 158 < 256 := by decide
  simp [encode, decodeWord, decodeE, major_wordXNN x hm h, fieldNN_wordXNN x h, fieldX_wordXNN x h]

theorem sknp (x : Reg) : Statement (.sknp x) := fun _ => by
  have hm : 14 < 16 := by decide
  have h : 161 < 256 := by decide
  simp [encode, decodeWord, decodeE, major_wordXNN x hm h, fieldNN_wordXNN x h, fieldX_wordXNN x h]

theorem ldVxDt (x : Reg) : Statement (.ldVxDt x) := fun _ => by
  have hm : 15 < 16 := by decide
  have h : 7 < 256 := by decide
  simp [encode, decode_xff x h, decodeF, fieldNN_wordXNN x h, fieldX_wordXNN x h]

theorem ldVxK (x : Reg) : Statement (.ldVxK x) := fun _ => by
  have hm : 15 < 16 := by decide
  have h : 10 < 256 := by decide
  simp [encode, decode_xff x h, decodeF, fieldNN_wordXNN x h, fieldX_wordXNN x h]

theorem ldDtVx (x : Reg) : Statement (.ldDtVx x) := fun _ => by
  have hm : 15 < 16 := by decide
  have h : 21 < 256 := by decide
  simp [encode, decode_xff x h, decodeF, fieldNN_wordXNN x h, fieldX_wordXNN x h]

theorem ldStVx (x : Reg) : Statement (.ldStVx x) := fun _ => by
  have hm : 15 < 16 := by decide
  have h : 24 < 256 := by decide
  simp [encode, decode_xff x h, decodeF, fieldNN_wordXNN x h, fieldX_wordXNN x h]

theorem addI (x : Reg) : Statement (.addI x) := fun _ => by
  have hm : 15 < 16 := by decide
  have h : 30 < 256 := by decide
  simp [encode, decode_xff x h, decodeF, fieldNN_wordXNN x h, fieldX_wordXNN x h]

theorem ldF (x : Reg) : Statement (.ldF x) := fun _ => by
  have hm : 15 < 16 := by decide
  have h : 41 < 256 := by decide
  simp [encode, decode_xff x h, decodeF, fieldNN_wordXNN x h, fieldX_wordXNN x h]

theorem ldB (x : Reg) : Statement (.ldB x) := fun _ => by
  have hm : 15 < 16 := by decide
  have h : 51 < 256 := by decide
  simp [encode, decode_xff x h, decodeF, fieldNN_wordXNN x h, fieldX_wordXNN x h]

theorem storeRegs (x : Reg) : Statement (.storeRegs x) := fun _ => by
  have hm : 15 < 16 := by decide
  have h : 85 < 256 := by decide
  simp [encode, decode_xff x h, decodeF, fieldNN_wordXNN x h, fieldX_wordXNN x h]

theorem loadRegs (x : Reg) : Statement (.loadRegs x) := fun _ => by
  have hm : 15 < 16 := by decide
  have h : 101 < 256 := by decide
  simp [encode, decode_xff x h, decodeF, fieldNN_wordXNN x h, fieldX_wordXNN x h]

end Sys2Proof.Laws.RoundTrip
end

