-- ==== Sys2Proof/Laws/Screen.lean ====
section
/-! SUPPORT. What drawing a sprite does, said once (44_display.md R211): each pixel is exclusive-ored with the sprite's bit
on it, and the collision is the "or" over the sprite's set bits of the old pixels. No pixel is touched twice. -/

namespace Sys2Proof.Machine

theorem Screen.pixel_setPixel (fb : Screen) (r r' : Fin 32) (c c' : Fin 64) (b : Bool) :
    (fb.setPixel r c b).pixel r' c' = if r' = r ∧ c' = c then b else fb.pixel r' c' := by
  simp only [Screen.pixel, Screen.setPixel, Fin.getElem_fin, Vector.getElem_set]
  by_cases h : r.val = r'.val
  · simp only [h, if_true, Vector.getElem_set]
    by_cases h2 : c.val = c'.val
    · simp [Fin.ext_iff, h, h2]
    · simp [Fin.ext_iff, h, h2, Ne.symm h2]
  · simp [Fin.ext_iff, h, Ne.symm h]

@[simp] theorem Screen.pixel_blank (r : Fin 32) (c : Fin 64) : Screen.blank.pixel r c = false := by
  simp [Screen.pixel, Screen.blank]

/-- Two screens with the same pixels are the same screen. -/
theorem Screen.ext_pixel {a b : Screen} (h : ∀ r c, a.pixel r c = b.pixel r c) : a = b := by
  apply Vector.ext
  intro r hr
  apply Vector.ext
  intro c hc
  exact h ⟨r, hr⟩ ⟨c, hc⟩

/-- The first `n` columns of the row `y` of a sprite cover the pixel (r, c) with a set bit. -/
def ColsCover (byte : Byte) (y x0 n : Nat) (r : Fin 32) (c : Fin 64) : Prop :=
  wrapRow y = r ∧ ∃ col, col < n ∧ spriteBit byte col = true ∧ wrapCol (x0 + col) = c

/-- The first `h` rows of a sprite cover the pixel (r, c) with a set bit. -/
def RowsCover (rows : Nat → Byte) (x0 y0 h : Nat) (r : Fin 32) (c : Fin 64) : Prop :=
  ∃ row, row < h ∧ ColsCover (rows row) (y0 + row) x0 8 r c

theorem wrapCol_inj {x a b : Nat} (ha : a < 64) (hb : b < 64) (h : wrapCol (x + a) = wrapCol (x + b)) : a = b := by
  simp only [wrapCol, Fin.ext_iff, Fin.val_ofNat] at h; omega

theorem wrapRow_inj {y a b : Nat} (ha : a < 32) (hb : b < 32) (h : wrapRow (y + a) = wrapRow (y + b)) : a = b := by
  simp only [wrapRow, Fin.ext_iff, Fin.val_ofNat] at h; omega

/-- The columns of one sprite row, drawn on any canvas. -/
theorem drawCols_spec (byte : Byte) (y x0 n : Nat) (hn : n ≤ 8) (cv : Canvas) :
    (∀ r c, (drawCols byte y x0 n cv).1.pixel r c = true ↔
      ((cv.1.pixel r c = true ∧ ¬ ColsCover byte y x0 n r c) ∨ (cv.1.pixel r c = false ∧ ColsCover byte y x0 n r c))) ∧
    ((drawCols byte y x0 n cv).2 = true ↔
      (cv.2 = true ∨ ∃ r c, ColsCover byte y x0 n r c ∧ cv.1.pixel r c = true)) := by
  induction n with
  | zero =>
    have h0 : ∀ r c, ¬ ColsCover byte y x0 0 r c := fun r c ⟨_, k, hk, _⟩ => by omega
    simp [drawCols, h0]
  | succ n ih =>
    obtain ⟨ih1, ih2⟩ := ih (by omega)
    by_cases hb : spriteBit byte n = true
    · have hcov : ∀ r c, ColsCover byte y x0 (n + 1) r c ↔
          (ColsCover byte y x0 n r c ∨ (wrapRow y = r ∧ wrapCol (x0 + n) = c)) := by
        intro r c
        constructor
        · rintro ⟨h1, k, hk, h2, h3⟩
          by_cases hkn : k = n
          · subst hkn; exact .inr ⟨h1, h3⟩
          · exact .inl ⟨h1, k, by omega, h2, h3⟩
        · rintro (⟨h1, k, hk, h2, h3⟩ | ⟨h1, h2⟩)
          · exact ⟨h1, k, by omega, h2, h3⟩
          · exact ⟨h1, n, by omega, hb, h2⟩
      have hnew : ¬ ColsCover byte y x0 n (wrapRow y) (wrapCol (x0 + n)) := by
        rintro ⟨_, k, hk, _, h3⟩
        have := wrapCol_inj (by omega) (by omega) h3
        omega
      have hold : (drawCols byte y x0 n cv).1.pixel (wrapRow y) (wrapCol (x0 + n)) =
          cv.1.pixel (wrapRow y) (wrapCol (x0 + n)) := by
        rw [Bool.eq_iff_iff, ih1]; simp [hnew]
      simp only [drawCols, hb, if_true, plot]
      refine ⟨fun r c => ?_, ?_⟩
      · rw [Screen.pixel_setPixel]
        by_cases hrc : r = wrapRow y ∧ c = wrapCol (x0 + n)
        · obtain ⟨rfl, rfl⟩ := hrc
          rw [if_pos ⟨rfl, rfl⟩, hold, hcov]
          cases cv.1.pixel (wrapRow y) (wrapCol (x0 + n)) <;> simp
        · rw [if_neg hrc, ih1, hcov]
          have : ¬ (wrapRow y = r ∧ wrapCol (x0 + n) = c) := fun ⟨a, b⟩ => hrc ⟨a.symm, b.symm⟩
          simp [this]
      · rw [hold, Bool.or_eq_true, ih2]
        constructor
        · rintro ((h | ⟨r, c, h1, h2⟩) | h)
          · exact .inl h
          · exact .inr ⟨r, c, (hcov r c).2 (.inl h1), h2⟩
          · exact .inr ⟨_, _, (hcov _ _).2 (.inr ⟨rfl, rfl⟩), h⟩
        · rintro (h | ⟨r, c, h1, h2⟩)
          · exact .inl (.inl h)
          · rcases (hcov r c).1 h1 with h1 | ⟨rfl, rfl⟩
            · exact .inl (.inr ⟨r, c, h1, h2⟩)
            · exact .inr h2
    · have hcov : ∀ r c, ColsCover byte y x0 (n + 1) r c ↔ ColsCover byte y x0 n r c := by
        intro r c
        constructor
        · rintro ⟨h1, k, hk, h2, h3⟩
          refine ⟨h1, k, ?_, h2, h3⟩
          by_contra hkn
          have : k = n := by omega
          subst this; exact hb h2
        · rintro ⟨h1, k, hk, h2, h3⟩; exact ⟨h1, k, by omega, h2, h3⟩
      simp only [drawCols, hb, hcov]
      exact ⟨ih1, ih2⟩

/-- The rows of a sprite of at most 32 rows, drawn on a canvas: each pixel is flipped exactly when the sprite covers it,
and a collision is noted exactly when the sprite covers a pixel that was set (R211; "no pixel is touched twice"). -/
theorem drawRows_spec (rows : Nat → Byte) (x0 y0 h : Nat) (hh : h ≤ 32) (cv : Canvas) :
    (∀ r c, (drawRows rows x0 y0 h cv).1.pixel r c = true ↔
      ((cv.1.pixel r c = true ∧ ¬ RowsCover rows x0 y0 h r c) ∨ (cv.1.pixel r c = false ∧ RowsCover rows x0 y0 h r c))) ∧
    ((drawRows rows x0 y0 h cv).2 = true ↔
      (cv.2 = true ∨ ∃ r c, RowsCover rows x0 y0 h r c ∧ cv.1.pixel r c = true)) := by
  induction h with
  | zero =>
    have h0 : ∀ r c, ¬ RowsCover rows x0 y0 0 r c := fun r c ⟨k, hk, _⟩ => by omega
    simp [drawRows, h0]
  | succ h ih =>
    obtain ⟨ih1, ih2⟩ := ih (by omega)
    obtain ⟨c1, c2⟩ := drawCols_spec (rows h) (y0 + h) x0 8 (le_refl 8) (drawRows rows x0 y0 h cv)
    have hcov : ∀ r c, RowsCover rows x0 y0 (h + 1) r c ↔
        (RowsCover rows x0 y0 h r c ∨ ColsCover (rows h) (y0 + h) x0 8 r c) := by
      intro r c
      constructor
      · rintro ⟨k, hk, h1⟩
        by_cases hkh : k = h
        · subst hkh; exact .inr h1
        · exact .inl ⟨k, by omega, h1⟩
      · rintro (⟨k, hk, h1⟩ | h1)
        · exact ⟨k, by omega, h1⟩
        · exact ⟨h, by omega, h1⟩
    have hdisj : ∀ r c, ColsCover (rows h) (y0 + h) x0 8 r c → ¬ RowsCover rows x0 y0 h r c := by
      rintro r c ⟨h1, _⟩ ⟨k, hk, h2, _⟩
      have := wrapRow_inj (by omega) (by omega) (h2.trans h1.symm)
      omega
    simp only [drawRows]
    refine ⟨fun r c => ?_, ?_⟩
    · rw [c1, hcov]
      have i1 := ih1 r c
      have hd := hdisj r c
      cases hp : (drawRows rows x0 y0 h cv).1.pixel r c <;> cases hq : cv.1.pixel r c <;> simp [hp, hq] at i1 ⊢ <;> tauto
    · rw [c2, ih2]
      constructor
      · rintro ((h1 | ⟨r, c, h1, h2⟩) | ⟨r, c, h1, h2⟩)
        · exact .inl h1
        · exact .inr ⟨r, c, (hcov r c).2 (.inl h1), h2⟩
        · have hd := hdisj r c h1
          have i1 := (ih1 r c).1 h2
          exact .inr ⟨r, c, (hcov r c).2 (.inr h1), by tauto⟩
      · rintro (h1 | ⟨r, c, h1, h2⟩)
        · exact .inl (.inl h1)
        · rcases (hcov r c).1 h1 with h1 | h1
          · exact .inl (.inr ⟨r, c, h1, h2⟩)
          · exact .inr ⟨r, c, h1, (ih1 r c).2 (.inl ⟨h2, hdisj r c h1⟩)⟩

end Sys2Proof.Machine
end

