-- ==== Sys2Proof/Laws/Step.lean ====
section
/-! SUPPORT. What a step, a batch of steps, a cycle and a transaction can do, said once. -/

namespace Sys2Proof.Machine

/-- Everything a step can do (40_fetch_step_cycle.md R121, R122). -/
theorem step_cases (s : State) :
    (s.waiting = true ∧ step s = .next s) ∨
    (s.waiting = false ∧ s.pc = 0xFFF#12 ∧ step s = .fault (.addressOutOfRange 0x1000)) ∨
    (s.waiting = false ∧ s.pc ≠ 0xFFF#12 ∧ decodeWord s.wordAtPc = none ∧ step s = .next s.fetched) ∨
    (∃ i, s.waiting = false ∧ s.pc ≠ 0xFFF#12 ∧ decodeWord s.wordAtPc = some i ∧ step s = exec i s.fetched) := by
  unfold step
  cases hw : s.waiting with
  | true => exact .inl ⟨rfl, by simp⟩
  | false =>
    right
    rcases fetch_cases s with ⟨hp, hf⟩ | ⟨hp, hf⟩
    · exact .inl ⟨rfl, hp, by simp [hf]⟩
    · right
      cases hd : decodeWord s.wordAtPc with
      | none => exact .inl ⟨rfl, hp, rfl, by simp [hf, hd, unknownWord]⟩
      | some i => exact .inr ⟨i, rfl, hp, rfl, by simp [hf, hd]⟩

/-- A step that waits does nothing (R121). -/
theorem step_waiting {s : State} (h : s.waiting = true) : step s = .next s := by
  simp [step, h]

/-- A step at PC = 0xFFF faults (R120). -/
theorem step_at_top {s : State} (hw : s.waiting = false) (h : s.pc = 0xFFF#12) :
    step s = .fault (.addressOutOfRange 0x1000) := by
  simp [step, hw, fetch_error h]

/-- A step on an unknown word leaves the fetched state (60_exceptions.md R261). -/
theorem step_unknown {s : State} (hw : s.waiting = false) (hp : s.pc ≠ 0xFFF#12) (hd : decodeWord s.wordAtPc = none) :
    step s = .next s.fetched := by
  simp [step, hw, fetch_ok hp, hd, unknownWord]

/-- A step on an instruction executes it on the fetched state (R122). -/
theorem step_exec {s : State} {i : Instr} (hw : s.waiting = false) (hp : s.pc ≠ 0xFFF#12)
    (hd : decodeWord s.wordAtPc = some i) : step s = exec i s.fetched := by
  simp [step, hw, fetch_ok hp, hd]

/-! ### The fetched state, field by field (R120) -/

variable (s : State)

@[simp] theorem State.fetched_v : s.fetched.v = s.v := rfl
@[simp] theorem State.fetched_i : s.fetched.i = s.i := rfl
@[simp] theorem State.fetched_pc : s.fetched.pc = BitVec.ofNat 12 (s.pc.toNat + 2) := rfl
@[simp] theorem State.fetched_stack : s.fetched.stack = s.stack := rfl
@[simp] theorem State.fetched_sp : s.fetched.sp = s.sp := rfl
@[simp] theorem State.fetched_dt : s.fetched.dt = s.dt := rfl
@[simp] theorem State.fetched_st : s.fetched.st = s.st := rfl
@[simp] theorem State.fetched_fb : s.fetched.fb = s.fb := rfl
@[simp] theorem State.fetched_keys : s.fetched.keys = s.keys := rfl
@[simp] theorem State.fetched_paused : s.fetched.paused = s.paused := rfl
@[simp] theorem State.fetched_waiting : s.fetched.waiting = s.waiting := rfl
@[simp] theorem State.fetched_keyReg : s.fetched.keyReg = s.keyReg := rfl
@[simp] theorem State.fetched_drawFlag : s.fetched.drawFlag = s.drawFlag := rfl
@[simp] theorem State.fetched_lastOp : s.fetched.lastOp = s.wordAtPc := rfl
@[simp] theorem State.fetched_speed : s.fetched.speed = s.speed := rfl
@[simp] theorem State.fetched_mem : s.fetched.mem = s.mem := rfl
@[simp] theorem State.fetched_draws : s.fetched.draws = s.draws := rfl

/-! ### Batches and cycles (R123) -/

theorem batch_zero : batch 0 s = .next s := rfl

theorem batch_succ {n : Nat} {s t : State} (h : step s = .next t) : batch (n + 1) s = batch n t := by
  simp [batch, h]

/-- A batch is the host interface's run of that many steps. -/
theorem batch_eq_run (n : Nat) (s : State) : batch n s = Host.Core.run Sys2Proof.core n s := by
  induction n generalizing s with
  | zero => rfl
  | succ n ih =>
    cases hs : step s with
    | next t =>
      have hc : Sys2Proof.core.step s = .next t := hs
      simp only [batch, Host.Core.run, hs, hc]
      exact ih t
    | fault f =>
      have hc : Sys2Proof.core.step s = .fault f := hs
      simp only [batch, Host.Core.run, hs, hc]
      rfl
    | refused r =>
      have hc : Sys2Proof.core.step s = .refused r := hs
      simp only [batch, Host.Core.run, hs, hc]
      rfl

/-- What every step keeps, a batch keeps. -/
theorem batch_keeps {P : State → Prop} (hstep : ∀ s t, P s → step s = .next t → P t) (n : Nat) {s t : State}
    (hs : P s) (h : batch n s = .next t) : P t := by
  induction n generalizing s with
  | zero => injection h with h; exact h ▸ hs
  | succ n ih =>
    simp only [batch] at h
    cases hq : step s with
    | next u => rw [hq] at h; exact ih (hstep s u hs hq) h
    | fault f => rw [hq] at h; cases h
    | refused r => rw [hq] at h; cases h

/-- A cycle that answers a next state: nothing while paused, else the batch and one tick (R123). -/
theorem hostCycle_inv {s t : State} (h : hostCycle s = .next t) :
    (s.paused = true ∧ t = s) ∨ (s.paused = false ∧ ∃ u, batch s.speed s = .next u ∧ t = timerTick u) := by
  unfold hostCycle at h
  cases hp : s.paused with
  | true => rw [hp] at h; injection h with h; exact .inl ⟨rfl, h.symm⟩
  | false =>
    rw [hp] at h
    cases hb : batch s.speed s with
    | next u => rw [hb] at h; injection h with h; exact .inr ⟨rfl, u, rfl, h.symm⟩
    | fault f => rw [hb] at h; cases h
    | refused r => rw [hb] at h; cases h

/-! ### Arguments of transactions (46_host_interface.md R242, R243, R246) -/

theorem romFits_iff (bytes : List Byte) : romFits bytes = true ↔ bytes.length ≤ 3584 := decide_eq_true_iff

theorem speedInRange_iff (n : Int) : speedInRange n = true ↔ 1 ≤ n ∧ n ≤ 100 := decide_eq_true_iff

theorem keyOf_val (k : Key) : keyOf (k.val : Int) = some k := by
  unfold keyOf; rw [if_pos (by omega)]; simp

theorem keyOf_none {k : Int} (h : k < 0 ∨ 15 < k) : keyOf k = none := if_neg (by omega)

/-- A timer counts down by one and stops at 0 (R124). -/
theorem countDown_toNat (b : Byte) : (countDown b).toNat = b.toNat - 1 := by
  unfold countDown
  split
  · next h => subst h; rfl
  · next h =>
    have h1 : b.toNat ≠ 0 := fun e => h (BitVec.eq_of_toNat_eq (by simpa using e))
    have h2 := b.isLt
    rw [BitVec.toNat_sub]; simp; omega

/-- What every transaction keeps, a run of transactions keeps. -/
theorem transactAll_keeps {P : State → Prop} (ht : ∀ x s t, P s → transact x s = .next t → P t)
    (xs : List Transaction) {s t : State} (hs : P s) (h : transactAll xs s = .next t) : P t := by
  induction xs generalizing s with
  | nil => injection h with h; exact h ▸ hs
  | cons x xs ih =>
    simp only [transactAll] at h
    cases hq : transact x s with
    | next u => rw [hq] at h; exact ih (ht x s u hs hq) h
    | fault f => rw [hq] at h; cases h
    | refused r => rw [hq] at h; cases h

end Sys2Proof.Machine
end

