-- ==== Sys2Proof/Machine/Disassembly.lean ====
section
/-! DEFINITION. The text of an instruction word (30_encoding.md R100 to R102). The disassembler is outside the datapath
(00_scope.md R4 (f)) and no other definition uses this file; it holds what the spec keeps of it, with what
the document leaves open chosen here (DESIGN CHOICE, log 21): the digit counts, the case of the hexadecimal digits of an
unknown word, and the spelling of the operands I, DT, ST, K, F, B and [I]. -/

namespace Sys2Proof.Machine

/-- An upper-case hexadecimal digit (R100). -/
def hexDigit (n : Nat) : Char := "0123456789ABCDEF".toList.getD (n % 16) '0'

/-- `len` upper-case hexadecimal digits, most significant first. -/
def hexText : Nat → Nat → List Char
  | 0, _ => []
  | len + 1, n => hexText len (n / 16) ++ [hexDigit n]

/-- A register operand: `V` and a digit (R100). -/
def regText (x : Reg) : List Char := ['V', hexDigit x.val]

/-- A mnemonic and its operands, separated by a comma and a space (R100). -/
def withOperands (name : String) : List (List Char) → List Char
  | [] => name.toList
  | first :: rest => name.toList ++ [' '] ++ first ++ (rest.map fun o => [',', ' '] ++ o).flatten

/-- The text of an instruction (R100). DESIGN CHOICE (log 21): an address has three digits, and the operands I, DT, ST, K, F,
B and [I] are spelled as in the spec's own templates (R95); the document shows neither (91_not_in_source.md N6). -/
def instrText : Instr → List Char
  | .cls => withOperands "CLS" []
  | .ret => withOperands "RET" []
  | .jp nnn => withOperands "JP" [hexText 3 nnn]
  | .call nnn => withOperands "CALL" [hexText 3 nnn]
  | .seImm x nn => withOperands "SE" [regText x, hexText 2 nn]
  | .sneImm x nn => withOperands "SNE" [regText x, hexText 2 nn]
  | .seReg x y => withOperands "SE" [regText x, regText y]
  | .ldImm x nn => withOperands "LD" [regText x, hexText 2 nn]
  | .addImm x nn => withOperands "ADD" [regText x, hexText 2 nn]
  | .ldReg x y => withOperands "LD" [regText x, regText y]
  | .orReg x y => withOperands "OR" [regText x, regText y]
  | .andReg x y => withOperands "AND" [regText x, regText y]
  | .xorReg x y => withOperands "XOR" [regText x, regText y]
  | .addReg x y => withOperands "ADD" [regText x, regText y]
  | .subReg x y => withOperands "SUB" [regText x, regText y]
  | .shr x _ => withOperands "SHR" [regText x]
  | .subn x y => withOperands "SUBN" [regText x, regText y]
  | .shl x _ => withOperands "SHL" [regText x]
  | .sneReg x y => withOperands "SNE" [regText x, regText y]
  | .ldI nnn => withOperands "LD" [['I'], hexText 3 nnn]
  | .jpV0 nnn => withOperands "JP" [regText 0, hexText 3 nnn]
  | .rnd x nn => withOperands "RND" [regText x, hexText 2 nn]
  | .drw x y n => withOperands "DRW" [regText x, regText y, hexText 1 n]
  | .skp x => withOperands "SKP" [regText x]
  | .sknp x => withOperands "SKNP" [regText x]
  | .ldVxDt x => withOperands "LD" [regText x, ['D', 'T']]
  | .ldVxK x => withOperands "LD" [regText x, ['K']]
  | .ldDtVx x => withOperands "LD" [['D', 'T'], regText x]
  | .ldStVx x => withOperands "LD" [['S', 'T'], regText x]
  | .addI x => withOperands "ADD" [['I'], regText x]
  | .ldF x => withOperands "LD" [['F'], regText x]
  | .ldB x => withOperands "LD" [['B'], regText x]
  | .storeRegs x => withOperands "LD" [['[', 'I', ']'], regText x]
  | .loadRegs x => withOperands "LD" [regText x, ['[', 'I', ']']]

/-- The text of a word: an unknown word is `UNKNOWN (<hex>)` (R101). DESIGN CHOICE (log 21): `<hex>` is four digits in upper
case, of which the document fixes neither the count nor the case. -/
def disassemble (op : Word) : List Char :=
  match decodeWord op with
  | some i => instrText i
  | none => "UNKNOWN (".toList ++ hexText 4 op.toNat ++ [')']

end Sys2Proof.Machine
end

