-- ==== Sys2Proof/Tests/Slice0.lean ====
section
/-! SUPPORT. The model's own tests. Every expected value is the spec's: the encodings of 30_encoding.md and the examples and
vectors of 95_test_vectors.md, named in each docstring. The last part shows states that meet the hypotheses of each
obligation. -/

namespace Sys2Proof.Tests

open Sys2Proof.Machine

/-! ## Helpers: small start states and one step -/

/-- A result is a next state with a property. -/
def next (r : Result) (p : State → Bool) : Bool :=
  match r with
  | .next t => p t
  | .fault _ => false
  | .refused _ => false

/-- A result is the range fault with this address. -/
def faults (r : Result) (a : Nat) : Bool :=
  match r with
  | .fault (.addressOutOfRange b) => b == a
  | .next _ => false
  | .refused _ => false

/-- A property that `next` tests is one of a next state. -/
theorem exists_of_next {r : Result} {p : State → Bool} (h : next r p = true) : ∃ t, r = .next t ∧ p t = true := by
  cases r with
  | next t => exact ⟨t, rfl, h⟩
  | fault f => cases h
  | refused f => cases h

/-- The reset state with some registers set. -/
def regs (l : List (Reg × Byte)) : State := l.foldl (fun s e => s.writeV e.1 e.2) State.reset

/-- One step that runs the word placed at PC. -/
def run (s : State) (w : Nat) : Result := step (s.withFetchWord 16 w)

/-- What that step reports. -/
def report (s : State) (w : Nat) : Option Diagnostic := stepReport (s.withFetchWord 16 w)

/-- The bytes at `n` addresses from `a` on. -/
def bytes (s : State) (a n : Nat) : List Nat := (List.range n).map fun k => (s.readByte (a + k)).toNat

/-- The lit pixels among the rows and columns given. -/
def lit (s : State) (rows : List (Fin 32)) (cols : List (Fin 64)) : List (Nat × Nat) :=
  (rows.map fun r => (cols.filter fun c => s.fb.pixel r c).map fun c => (r.val, c.val)).flatten

/-- How many pixels are lit. -/
def litCount (s : State) : Nat := (s.fb.toList.map fun r => r.toList.countP id).sum

/-! ## WellFormed refuses what no encoding holds (R91, R93, R249) -/

theorem test_wellFormed_refuses_wide_address :
    ¬ (Instr.jp 4096).WellFormed ∧ ¬ (Instr.call 4096).WellFormed ∧ ¬ (Instr.ldI 4096).WellFormed ∧
    ¬ (Instr.jpV0 4096).WellFormed ∧ (Instr.jp 4095).WellFormed := by decide

theorem test_wellFormed_refuses_wide_byte :
    ¬ (Instr.seImm 0 256).WellFormed ∧ ¬ (Instr.sneImm 0 256).WellFormed ∧ ¬ (Instr.ldImm 0 256).WellFormed ∧
    ¬ (Instr.addImm 0 256).WellFormed ∧ ¬ (Instr.rnd 0 256).WellFormed ∧ (Instr.rnd 0 255).WellFormed := by decide

theorem test_wellFormed_refuses_tall_sprite : ¬ (Instr.drw 0 0 16).WellFormed ∧ (Instr.drw 0 0 15).WellFormed := by decide

theorem test_transaction_wellFormed :
    (Transaction.keyPress 16).wellFormed = false ∧ (Transaction.keyRelease (-1)).wellFormed = false ∧
    (Transaction.setSpeed 0).wellFormed = false ∧ (Transaction.setSpeed 101).wellFormed = false ∧
    (Transaction.setSpeed 100).wellFormed = true ∧ (Transaction.keyPress 15).wellFormed = true := by decide

theorem test_transaction_wellFormed_rom :
    (Transaction.loadRom (List.replicate 3585 0)).wellFormed = false ∧
    (Transaction.loadRom (List.replicate 3584 0)).wellFormed = true := by
  simp only [Transaction.wellFormed, romFits, List.length_replicate]
  decide

/-! ## Decoding, words written out from R92 and R95 -/

theorem test_decode_control_flow :
    decodeWord 0b0000000011101110 = some .ret ∧ decodeWord 0b0001101010111100 = some (.jp 0xABC) ∧
    decodeWord 0b0010001000010000 = some (.call 0x210) ∧ decodeWord 0b0011101001000010 = some (.seImm 0xA 0x42) ∧
    decodeWord 0b0100101001000010 = some (.sneImm 0xA 0x42) ∧ decodeWord 0b0101101010110000 = some (.seReg 0xA 0xB) ∧
    decodeWord 0b1001101010110000 = some (.sneReg 0xA 0xB) ∧
    decodeWord 0b1011111110000000 = some (.jpV0 0xF80) := by decide

theorem test_decode_alu_immediate :
    decodeWord 0b0110001100001010 = some (.ldImm 3 0x0A) ∧ decodeWord 0b0111111100000001 = some (.addImm 15 1) ∧
    decodeWord 0b1100001100001111 = some (.rnd 3 0x0F) := by decide

theorem test_decode_alu_register :
    decodeWord 0b1000101010110000 = some (.ldReg 0xA 0xB) ∧ decodeWord 0b1000101010110001 = some (.orReg 0xA 0xB) ∧
    decodeWord 0b1000101010110010 = some (.andReg 0xA 0xB) ∧ decodeWord 0b1000101010110011 = some (.xorReg 0xA 0xB) ∧
    decodeWord 0b1000101010110100 = some (.addReg 0xA 0xB) ∧ decodeWord 0b1000101010110101 = some (.subReg 0xA 0xB) ∧
    decodeWord 0b1000101010110110 = some (.shr 0xA 0xB) ∧ decodeWord 0b1000101010110111 = some (.subn 0xA 0xB) ∧
    decodeWord 0b1000101010111110 = some (.shl 0xA 0xB) := by decide

theorem test_decode_index_memory :
    decodeWord 0b1010000100100011 = some (.ldI 0x123) ∧ decodeWord 0b1111001000011110 = some (.addI 2) ∧
    decodeWord 0b1111000000101001 = some (.ldF 0) ∧ decodeWord 0b1111000000110011 = some (.ldB 0) ∧
    decodeWord 0b1111001001010101 = some (.storeRegs 2) ∧ decodeWord 0b1111001001100101 = some (.loadRegs 2) := by decide

theorem test_decode_display :
    decodeWord 0b0000000011100000 = some .cls ∧ decodeWord 0b1101000000010101 = some (.drw 0 1 5) := by decide

theorem test_decode_keypad_timers :
    decodeWord 0b1110000110011110 = some (.skp 1) ∧ decodeWord 0b1110000110100001 = some (.sknp 1) ∧
    decodeWord 0b1111001100000111 = some (.ldVxDt 3) ∧ decodeWord 0b1111010100001010 = some (.ldVxK 5) ∧
    decodeWord 0b1111001100010101 = some (.ldDtVx 3) ∧ decodeWord 0b1111001100011000 = some (.ldStVx 3) := by decide

/-- The unknown words of 95_test_vectors.md 2.7. -/
theorem test_decode_unknown :
    [0x00E1#16, 0x0000#16, 0x0123#16, 0x00FD#16, 0x5AB1#16, 0x9ABF#16, 0x8AB8#16, 0x8ABF#16, 0xE09F#16, 0xE000#16,
      0xF000#16, 0xF075#16, 0xF030#16, 0xFFFF#16].all (fun op => (decodeWord op).isNone) = true := by decide

/-- Bytes are taken high first, and what does not decode is rejected by name (R90, R97). -/
theorem test_decode_bytes :
    (match decode [0x60, 0x0A, 0x61] with | .ok r => some r | .error _ => none) = some (.ldImm 0 0x0A, [0x61]) ∧
    (match decode [0x5A, 0xB1] with | .ok _ => none | .error e => some e) = some (.unknownOpcode 0x5AB1) ∧
    (match decode [0x60] with | .ok _ => none | .error e => some e) = some .truncated := by decide

theorem test_decode_table_word :
    decodeTableWord 16 0x00E0 = some .cls ∧ decodeTableWord 16 0xD015 = some (.drw 0 1 5) := by decide

/-- The document's two examples of text, and an unknown word (95_test_vectors.md 1.3). -/
theorem test_disassemble :
    disassemble 0x630A = "LD V3, 0A".toList ∧ disassemble 0xD015 = "DRW V0, V1, 5".toList ∧
    disassemble 0x5AB1 = "UNKNOWN (5AB1)".toList := by decide

/-! ## Reset, memory, fetch and step -/

/-- The document's scenario S1. -/
theorem test_reset :
    State.reset.readV 0 = 0 ∧ State.reset.pc = 0x200 ∧ State.reset.sp = 0 ∧ State.reset.dt = 0 ∧ State.reset.st = 0 ∧
    bytes State.reset 0 5 = [0xF0, 0x90, 0x90, 0x90, 0xF0] ∧ bytes State.reset 0x4F 3 = [0x80, 0, 0] ∧
    bytes State.reset 0x200 1 = [0] ∧ State.reset.speed = 10 := by decide

theorem test_font_length : font.length = 80 := by decide

/-- Writing the byte an unlisted address reads as takes the entry off the list: equal memories are equal data (log 4). -/
theorem test_memory_canonical :
    ((State.reset.storeBytes 0x300 [7, 8]).storeBytes 0x300 [0, 0]).mem = [] ∧
    (State.reset.storeBytes 0 [0xF0]).mem = [] ∧
    ((State.reset.storeBytes 0x301 [8]).storeBytes 0x300 [7]).mem = (State.reset.storeBytes 0x300 [7, 8]).mem := by decide

/-- V-S1. -/
theorem test_step_big_endian :
    next (step (State.reset.storeBytes 0x200 [0x60, 0x0A]))
      (fun t => t.readV 0 == 0x0A && t.pc == 0x202 && t.lastOp == 0x600A) = true := by decide

/-- V-S2: an odd PC is legal, and the word is unknown. -/
theorem test_step_odd_pc :
    next (step ((State.reset.storeBytes 0x200 [0x60, 0x0A, 0x61, 0x14]).setPc 0x201))
      (fun t => t.pc == 0x203 && t.lastOp == 0x0A61) = true ∧
    stepReport ((State.reset.storeBytes 0x200 [0x60, 0x0A, 0x61, 0x14]).setPc 0x201) = some (.unknownOpcode 0x0A61) := by
  decide

/-- V-S3 and V-S4. -/
theorem test_step_top_of_ram :
    next (run (State.reset.setPc 0xFFE) 0x6007) (fun t => t.readV 0 == 7 && t.pc == 0) = true ∧
    faults (step (State.reset.setPc 0xFFF)) 0x1000 = true := by decide

/-- V-S11 and V-S12: a cycle of one step that begins a wait, and one that only ticks. -/
theorem test_cycle_waiting :
    next (transact .cycle (((State.reset.withFetchWord 16 0xF00A).setDt 3)))
      (fun t => t.speed == 10 && t.waiting && t.keyReg == 0 && t.pc == 0x202 && t.dt == 2 && t.lastOp == 0xF00A &&
        next (transact .cycle t) (fun u => u.pc == 0x202 && u.dt == 1)) = true := by decide

/-- V-S7: timers stop at 0. -/
theorem test_timer_tick : (timerTick (State.reset.setSt 0xFE)).dt = 0 ∧ (timerTick (State.reset.setSt 0xFE)).st = 0xFD := by
  decide

/-- V-S8: a paused cycle does nothing. -/
theorem test_cycle_paused :
    next (transact .cycle { State.reset.setDt 5 with paused := true }) (fun t => t.dt == 5 && t.pc == 0x200) = true ∧
    runState { State.reset with paused := true, waiting := true } = .pausedAndWaiting := by decide

/-! ## Control flow (V-C1 to V-C25) -/

/-- A stack of two entries. -/
def stacked : State := (State.reset.push 0x202).push 0x456

/-- A full stack of 0x111. -/
def fullStack : State := { State.reset with stack := Vector.replicate 16 0x111, sp := 16 }

/-- V-C1 and V-C3. -/
theorem test_ret :
    next (run stacked 0x00EE) (fun t => t.sp == 1 && t.pc == 0x456 && t.stack == stacked.stack) = true ∧
    next (run fullStack 0x00EE) (fun t => t.sp == 15 && t.pc == 0x111) = true := by decide

/-- V-C2. -/
theorem test_ret_underflow :
    next (run State.reset 0x00EE) (fun t => t.sp == 0 && t.pc == 0x202) = true ∧
    report State.reset 0x00EE = some .stackUnderflow := by decide

/-- V-C4. -/
theorem test_jp : next (run State.reset 0x1ABC) (fun t => t.pc == 0xABC) = true := by decide

/-- V-C7 and V-C9. -/
theorem test_call :
    next (run { State.reset with sp := 15 } 0x2ABC) (fun t => t.sp == 16 && t.stack[15] == 0x202 && t.pc == 0xABC) = true ∧
    next (run (State.reset.setPc 0xFFE) 0x2300) (fun t => t.sp == 1 && t.stack[0] == 0 && t.pc == 0x300) = true := by decide

/-- V-C8. -/
theorem test_call_overflow :
    next (run fullStack 0x2ABC) (fun t => t.sp == 16 && t.pc == 0x202 && t.stack == fullStack.stack) = true ∧
    report fullStack 0x2ABC = some .stackOverflow := by decide

/-- V-C10 and V-C11. -/
theorem test_seImm :
    next (run (regs [(0xA, 0x42)]) 0x3A42) (fun t => t.pc == 0x204) = true ∧
    next (run (regs [(0xA, 0x43)]) 0x3A42) (fun t => t.pc == 0x202) = true := by decide

/-- V-C12 and V-C13. -/
theorem test_sneImm :
    next (run (regs [(0xA, 0x42)]) 0x4A42) (fun t => t.pc == 0x202) = true ∧
    next (run (regs [(0xA, 0x43)]) 0x4A42) (fun t => t.pc == 0x204) = true := by decide

/-- V-C14 and V-C15. -/
theorem test_seReg :
    next (run (regs [(1, 7), (2, 7)]) 0x5120) (fun t => t.pc == 0x204) = true ∧
    next (run (regs [(1, 7), (2, 8)]) 0x5120) (fun t => t.pc == 0x202) = true := by decide

/-- V-C17 and V-C18. -/
theorem test_sneReg :
    next (run (regs [(1, 7), (2, 7)]) 0x9120) (fun t => t.pc == 0x202) = true ∧
    next (run (regs [(1, 7), (2, 8)]) 0x9120) (fun t => t.pc == 0x204) = true := by decide

/-- V-C20 and V-C21. -/
theorem test_skip_wraps :
    next (run (State.reset.setPc 0xFFC) 0x3000) (fun t => t.pc == 0) = true ∧
    next (run (State.reset.setPc 0xFFE) 0x3000) (fun t => t.pc == 2) = true := by decide

/-- V-C24 and V-C25. -/
theorem test_jpV0 :
    next (run (regs [(0, 0xFF)]) 0xBF80) (fun t => t.pc == 0x07F) = true ∧
    next (run (regs [(3, 0x55)]) 0xB300) (fun t => t.pc == 0x300) = true := by decide

/-! ## ALU (V-A1 to V-A42) -/

/-- S2's first load. -/
theorem test_ldImm : next (run State.reset 0x600A) (fun t => t.readV 0 == 0x0A) = true := by decide

/-- V-A1 and V-A2. -/
theorem test_addImm :
    next (run (regs [(1, 0xFF), (15, 0x33)]) 0x7101) (fun t => t.readV 1 == 0 && t.readV 15 == 0x33) = true ∧
    next (run (regs [(15, 0xFF)]) 0x7F01) (fun t => t.readV 15 == 0) = true := by decide

/-- V-A3. -/
theorem test_ldReg : next (run (regs [(2, 0x77)]) 0x8120) (fun t => t.readV 1 == 0x77 && t.readV 2 == 0x77) = true := by
  decide

/-- V-A4. -/
theorem test_orReg :
    next (run (regs [(0, 0xF0), (1, 0x0F), (15, 7)]) 0x8011) (fun t => t.readV 0 == 0xFF && t.readV 15 == 7) = true := by
  decide

/-- V-A5. -/
theorem test_andReg :
    next (run (regs [(0, 0xF0), (1, 0x3C), (15, 7)]) 0x8012) (fun t => t.readV 0 == 0x30 && t.readV 15 == 7) = true := by
  decide

/-- V-A6. -/
theorem test_xorReg :
    next (run (regs [(0, 0xF0), (1, 0x3C), (15, 7)]) 0x8013) (fun t => t.readV 0 == 0xCC && t.readV 15 == 7) = true := by
  decide

/-- V-A8, V-A12 and V-A14. -/
theorem test_addReg :
    next (run (regs [(15, 0xC8), (1, 0x64)]) 0x8F14) (fun t => t.readV 15 == 1) = true ∧
    next (run (regs [(0, 0x7F), (1, 0x80)]) 0x8014) (fun t => t.readV 0 == 0xFF && t.readV 15 == 0) = true ∧
    next (run (regs [(0, 0xFE), (15, 5)]) 0x80F4) (fun t => t.readV 0 == 3 && t.readV 15 == 1) = true := by decide

/-- V-A17, V-A19 and V-A21. -/
theorem test_subReg :
    next (run (regs [(0, 5), (1, 7)]) 0x8015) (fun t => t.readV 0 == 0xFE && t.readV 15 == 0) = true ∧
    next (run (regs [(0, 7), (1, 7), (15, 1)]) 0x8015) (fun t => t.readV 0 == 0 && t.readV 15 == 0) = true ∧
    next (run (regs [(15, 9), (1, 4)]) 0x8F15) (fun t => t.readV 15 == 1) = true := by decide

/-- V-A28 and V-A29. -/
theorem test_shr :
    next (run (regs [(0, 0xFF)]) 0x8016) (fun t => t.readV 0 == 0x7F && t.readV 15 == 1 && t.readV 1 == 0) = true ∧
    next (run (regs [(15, 5)]) 0x8F06) (fun t => t.readV 15 == 1) = true := by decide

/-- V-A31, V-A33 and V-A35. -/
theorem test_subn :
    next (run (regs [(0, 5), (1, 7)]) 0x8017) (fun t => t.readV 0 == 2 && t.readV 15 == 1) = true ∧
    next (run (regs [(0, 7), (1, 7), (15, 1)]) 0x8017) (fun t => t.readV 0 == 0 && t.readV 15 == 0) = true ∧
    next (run (regs [(0, 4), (15, 9)]) 0x80F7) (fun t => t.readV 0 == 5 && t.readV 15 == 1) = true := by decide

/-- V-A38 and V-A40. -/
theorem test_shl :
    next (run (regs [(0, 1), (1, 0xFF)]) 0x801E) (fun t => t.readV 0 == 2 && t.readV 15 == 0 && t.readV 1 == 0xFF) = true ∧
    next (run (regs [(15, 0x41)]) 0x8F0E) (fun t => t.readV 15 == 0) = true := by decide

/-- V-A42: with mask 00 the result is 00 for every random byte. -/
theorem test_rnd_mask_zero (s : State) : next (execRnd 3 0 s) (fun t => t.readV 3 == 0) = true := by
  simp [next, execRnd, imm8]

/-- V-A43: with mask FF the result is the random byte. -/
theorem test_rnd_mask_full (s : State) : next (execRnd 3 0xFF s) (fun t => t.readV 3 == s.randomByte) = true := by
  have h : s.randomByte &&& 255#8 = s.randomByte := BitVec.and_allOnes
  simp [next, execRnd, imm8, h]

/-! ## Index register and memory (V-I1 to V-I28) -/

/-- V-I1. -/
theorem test_ldI : next (run State.reset 0xA123) (fun t => t.i == 0x123) = true := by decide

/-- V-I2, V-I6 and V-I7. -/
theorem test_addI :
    next (run ((regs [(2, 0x20)]).setI 0xFF0) 0xF21E) (fun t => t.i == 0x010 && t.readV 15 == 1) = true ∧
    next (run ((regs [(0, 0xFF), (15, 7)]).setI 0xF00) 0xF01E) (fun t => t.i == 0xFFF && t.readV 15 == 7) = true ∧
    next (run ((regs [(15, 3)]).setI 0xFFE) 0xFF1E) (fun t => t.i == 0x001 && t.readV 15 == 1) = true := by decide

/-- V-I10 and V-I11. -/
theorem test_ldF :
    next (run (regs [(0, 0x1A)]) 0xF029) (fun t => t.i == 0x032) = true ∧
    next (run (regs [(0, 0xFF)]) 0xF029) (fun t => t.i == 0x04B) = true := by decide

/-- V-I19. -/
theorem test_ldB :
    next (run ((regs [(0, 0xFF)]).setI 0xFFD) 0xF033) (fun t => bytes t 0xFFD 3 == [2, 5, 5] && t.i == 0xFFD) = true := by
  decide

/-- V-I20. -/
theorem test_ldB_fault : faults (run ((regs [(0, 0xFF)]).setI 0xFFE) 0xF033) 0x1000 = true := by decide

/-- V-I21. -/
theorem test_storeRegs :
    next (run ((regs [(0, 0x11), (1, 0x22), (2, 0x33), (3, 0x44)]).setI 0x400) 0xF255)
      (fun t => bytes t 0x400 4 == [0x11, 0x22, 0x33, 0] && t.i == 0x400) = true := by decide

/-- V-I24. -/
theorem test_storeRegs_fault : faults (run (State.reset.setI 0xFF1) 0xFF55) 0x1000 = true := by decide

/-- V-I25. -/
theorem test_loadRegs :
    next (run (((regs [(3, 0x77)]).storeBytes 0x400 [0xAA, 0xBB, 0xCC, 0xDD]).setI 0x400) 0xF265)
      (fun t => t.readV 0 == 0xAA && t.readV 1 == 0xBB && t.readV 2 == 0xCC && t.readV 3 == 0x77 && t.i == 0x400) = true := by
  decide

/-- V-I27 and V-I28. -/
theorem test_loadRegs_edges :
    faults (run (State.reset.setI 0xFF1) 0xFF65) 0x1000 = true ∧
    next (run (State.reset.setI 0x200) 0xF165) (fun t => t.readV 0 == 0xF1 && t.readV 1 == 0x65) = true := by decide

/-! ## Display (V-D1 to V-D16) -/

/-- V-D1. -/
theorem test_cls :
    next (run { regs [(15, 5)] with fb := (Screen.blank.setPixel 0 0 true).setPixel 0x1F 0x3F true } 0x00E0)
      (fun t => litCount t == 0 && t.drawFlag && t.readV 15 == 5) = true := by decide

/-- V-D4: coordinates are read before VF is written. -/
theorem test_drw_coordinates_from_vf :
    next (run (((regs [(15, 5)]).storeBytes 0x300 [0x80]).setI 0x300) 0xDFF1)
      (fun t => t.fb.pixel 5 5 && litCount t == 1 && t.readV 15 == 0 && t.drawFlag) = true := by decide

/-- V-D6: collision. -/
theorem test_drw_collision :
    next (run { (State.reset.storeBytes 0x300 [0xC0]).setI 0x300 with fb := Screen.blank.setPixel 0 0 true } 0xD011)
      (fun t => lit t [0, 1] [0, 1, 2] == [(0, 1)] && litCount t == 1 && t.readV 15 == 1) = true := by decide

/-- V-D8 and V-D11: both axes wrap, pixel by pixel. -/
theorem test_drw_wraps :
    next (run (((regs [(0, 0xFF), (1, 0xFF)]).storeBytes 0x300 [0xC0]).setI 0x300) 0xD011)
      (fun t => lit t [0, 31] [0, 63] == [(31, 0), (31, 63)] && litCount t == 2) = true ∧
    next (run (((regs [(1, 0x1F)]).storeBytes 0x300 [0x80, 0x80]).setI 0x300) 0xD012)
      (fun t => lit t [0, 31] [0, 63] == [(0, 0), (31, 0)] && litCount t == 2) = true := by decide

/-- V-D15: the glyph 0 at (0, 0). -/
theorem test_drw_glyph :
    next (run State.reset 0xD005)
      (fun t => lit t [0, 1, 2, 3, 4] [0, 1, 2, 3] == [(0, 0), (0, 1), (0, 2), (0, 3), (1, 0), (1, 3), (2, 0), (2, 3), (3, 0),
        (3, 3), (4, 0), (4, 1), (4, 2), (4, 3)] && litCount t == 14) = true := by decide

/-- V-D13 and V-D14. -/
theorem test_drw_range :
    faults (run (State.reset.setI 0xFF2) 0xD01F) 0x1000 = true ∧
    next (run ((regs [(15, 7)]).setI 0xFFF) 0xD010) (fun t => t.readV 15 == 0 && t.drawFlag && litCount t == 0) = true := by
  decide

/-! ## Keypad and timers (V-K1 to V-K18) -/

/-- Key A pressed. -/
def keyA (s : State) : State := { s with keys := s.keys.set 10 true }

/-- V-K3 and V-K2. -/
theorem test_skp :
    next (run (keyA (regs [(1, 0x1A)])) 0xE19E) (fun t => t.pc == 0x204) = true ∧
    next (run (regs [(1, 0x0A)]) 0xE19E) (fun t => t.pc == 0x202) = true := by decide

/-- V-K6 and V-K5. -/
theorem test_sknp :
    next (run (keyA (regs [(1, 0xFA)])) 0xE1A1) (fun t => t.pc == 0x202) = true ∧
    next (run (regs [(1, 0x0A)]) 0xE1A1) (fun t => t.pc == 0x204) = true := by decide

/-- V-K7. -/
theorem test_ldVxDt : next (run (State.reset.setDt 0x2A) 0xF307) (fun t => t.readV 3 == 0x2A && t.dt == 0x2A) = true := by
  decide

/-- V-K8. -/
theorem test_ldDtVx : next (run (regs [(3, 0x2A)]) 0xF315) (fun t => t.dt == 0x2A && t.st == 0) = true := by decide

/-- V-K9. -/
theorem test_ldStVx : next (run (regs [(3, 0x2A)]) 0xF318) (fun t => t.st == 0x2A && t.dt == 0) = true := by decide

/-- V-K10. -/
theorem test_ldVxK :
    next (run (keyA State.reset) 0xF50A) (fun t => t.waiting && t.keyReg == 5 && t.pc == 0x202 && t.readV 5 == 0) = true := by
  decide

/-- V-K12, V-K13 and V-K14. -/
theorem test_key_latch :
    next (transact (.keyPress 16) (State.reset.awaitKey 5)) (fun t => t.waiting) = true ∧
    next (transact (.keyPress 2) (State.reset.awaitKey 5)) (fun t => !t.waiting && t.readV 5 == 2 && t.keys[2]) = true ∧
    next (transact (.keyPress 3) (regs [(5, 2)])) (fun t => t.readV 5 == 2 && t.keys[3]) = true := by decide

/-- V-K16. -/
theorem test_key_release : next (transact (.keyRelease 10) (keyA State.reset)) (fun t => !t.keys[10]) = true := by decide

/-- V-K18: an image that is too long is reported and changes nothing. -/
theorem test_rom_too_long :
    transactReport (.loadRom (List.replicate 3585 1)) State.reset = [.outOfROMSpace 3585] := by
  simp only [transactReport, romFits, List.length_replicate]
  decide

/-! ## Witnesses: states and operands that meet the hypotheses of the obligations

One theorem for each obligation that has hypotheses; for one with several clauses, each clause at a boundary. -/

theorem witness_DecodeInvertsEncode :
    (Instr.jp 0).WellFormed ∧ (Instr.jpV0 4095).WellFormed ∧ (Instr.seImm 15 255).WellFormed ∧
    (Instr.drw 15 15 15).WellFormed := by decide

theorem witness_EncodeInvertsDecode :
    decodeWord 0xDFFF = some (.drw 15 15 15) ∧ decodeWord 0xFF65 = some (.loadRegs 15) := by decide

/-- One word matches the row, and its neighbour matches none. -/
theorem witness_DecoderFollowsOpcodeMap :
    (⟨"SHL Vx", 0xF00F, 0x800E⟩ : OpcodeRow) ∈ opcodeMap ∧ 0x8ABE#16 &&& 0xF00F#16 = 0x800E#16 ∧
    0x8ABF#16 &&& 0xF00F#16 ≠ 0x800E#16 := by decide

theorem witness_OpcodeRowsAreDisjoint :
    (⟨"SKP Vx", 0xF0FF, 0xE09E⟩ : OpcodeRow) ∈ opcodeMap ∧ 0xE59E#16 &&& 0xF0FF#16 = 0xE09E#16 := by decide

/-- A word of each clause of the table of unknown words. -/
theorem witness_UnknownWordsAreTheListedOnes :
    [0x00E1#16, 0x5AB1#16, 0x8AB8#16, 0x9ABF#16, 0xE09F#16, 0xF075#16].all (fun op => (decodeWord op).isNone) = true := by
  decide

/-- The highest PC of the first clause, and the PC of the second. -/
theorem witness_FetchReadsBigEndianAndAdvances :
    (State.reset.setPc 0xFFE).pc ≠ 0xFFF#12 ∧ (State.reset.setPc 0xFFF).pc = 0xFFF#12 := by decide

theorem witness_StepRunsDecodedInstruction :
    let s := State.reset.withFetchWord 16 0x600A
    s.waiting = false ∧ s.pc ≠ 0xFFF#12 ∧
    (match decode [s.readByte s.pc.toNat, s.readByte (s.pc.toNat + 1)] with | .ok r => some r | .error _ => none) =
      some (.ldImm 0 0x0A, []) := by decide

theorem witness_StepDoesNothingWhileWaiting : (State.reset.awaitKey 5).waiting = true := by decide

theorem witness_StepFaultsAtTopOfRam :
    (State.reset.setPc 0xFFF).waiting = false ∧ (State.reset.setPc 0xFFF).pc = 0xFFF#12 := by decide

theorem witness_UnknownWordOnlyReports :
    let s := State.reset
    s.waiting = false ∧ s.pc ≠ 0xFFF#12 ∧
    0#16 = wordOfBytes (s.readByte s.pc.toNat) (s.readByte (s.pc.toNat + 1)) ∧ decodeWord 0#16 = none := by decide

/-- A load, which redirects nothing. -/
theorem witness_PcAdvancesByTwoUnlessRedirected :
    let s := State.reset.withFetchWord 16 0x600A
    s.waiting = false ∧ (∃ t, step s = .next t) ∧
    ∀ i, decodeWord (wordOfBytes (s.readByte s.pc.toNat) (s.readByte (s.pc.toNat + 1))) = some i → redirects i s = false := by
  refine ⟨rfl, ⟨_, rfl⟩, fun i h => ?_⟩
  have hw : decodeWord (wordOfBytes ((State.reset.withFetchWord 16 0x600A).readByte 0x200)
      ((State.reset.withFetchWord 16 0x600A).readByte 0x201)) = some (.ldImm 0 0x0A) := by decide
  have h2 := hw.symm.trans h
  injection h2 with h2
  subst h2
  rfl

/-- A step that reports each of the two stack faults. -/
theorem witness_StepReportsMatchOutcomes :
    stepReport (State.reset.withFetchWord 16 0x00EE) = some .stackUnderflow ∧
    stepReport (fullStack.withFetchWord 16 0x2ABC) = some .stackOverflow := by decide

theorem witness_JumpsSetPc : 0 < 4096 ∧ 4095 < 4096 := by decide

/-- The deepest stack of the first clause, and the stack of the second. -/
theorem witness_CallPushesAndJumps :
    4095 < 4096 ∧ ({ fullStack with sp := 15 } : State).sp.val < 16 ∧ fullStack.sp.val = 16 := by decide

/-- Both ends of the first clause, and the stack of the second. -/
theorem witness_RetPopsIntoPc :
    0 < (State.reset.push 0x202).sp.val ∧ 0 < fullStack.sp.val ∧ State.reset.sp.val = 0 := by decide

theorem witness_CallThenRetReturns :
    State.reset.sp.val < 16 ∧ ∃ t, exec (.call 0xABC) State.reset = .next t ∧ ∃ u : State, u.sp = t.sp ∧ u.stack = t.stack :=
  ⟨by decide, _, rfl, _, rfl, rfl⟩

/-- The largest immediate, equal and not equal to the register, and two registers that agree and differ. -/
theorem witness_SkipsCompareRegisters :
    255 < 256 ∧ ((regs [(1, 255)]).readV 1).toNat = 255 ∧ ((regs [(1, 254)]).readV 1).toNat ≠ 255 ∧
    (regs [(1, 7), (2, 7)]).readV 1 = (regs [(1, 7), (2, 7)]).readV 2 ∧ (regs [(1, 7)]).readV 1 ≠ (regs [(1, 7)]).readV 2 := by
  decide

theorem witness_LoadsWriteOnlyVx : 0 < 256 ∧ 255 < 256 := by decide

theorem witness_AddImmediateWrapsWithoutFlag : 0 < 256 ∧ 255 < 256 := by decide

/-- A destination other than VF: sums on both sides of the carry's boundary. -/
theorem witness_AddLeavesSumAndCarry :
    (0 : Reg) ≠ 15 ∧ ((regs [(0, 0x7F), (1, 0x80)]).readV 0).toNat + ((regs [(0, 0x7F), (1, 0x80)]).readV 1).toNat = 255 ∧
    ((regs [(0, 0x80), (1, 0x80)]).readV 0).toNat + ((regs [(0, 0x80), (1, 0x80)]).readV 1).toNat = 256 := by decide

theorem witness_SubtractsLeaveDifferenceAndStrictFlag : (14 : Reg) ≠ 15 := by decide

theorem witness_ShiftsLeaveBitShiftedOut : (14 : Reg) ≠ 15 := by decide

theorem witness_RandomByteIsMasked : 0 < 256 ∧ 255 < 256 := by decide

theorem witness_IndexLoadsSetI : 0 < 4096 ∧ 4095 < 4096 := by decide

/-- Sums of 0xFFF and of 0x1000. -/
theorem witness_AddToIndexFlagsOnlyOverflow :
    let s := (regs [(0, 0xFF)]).setI 0xF00
    let t := (regs [(0, 0xFF)]).setI 0xF01
    s.i.toNat + (s.readV 0).toNat ≤ 0xFFF ∧ 0xFFF < t.i.toNat + (t.readV 0).toNat := by decide

/-- The highest I of the first clause and the lowest of the second. -/
theorem witness_BcdStoresDecimalDigits :
    (State.reset.setI 0xFFD).i.toNat + 2 ≤ 0xFFF ∧ 0xFFF < (State.reset.setI 0xFFE).i.toNat + 2 := by decide

/-- The highest I of the first clause and the lowest of the second, for x = F. -/
theorem witness_StoreRegistersWritesRange :
    (State.reset.setI 0xFF0).i.toNat + (15 : Reg).val ≤ 0xFFF ∧ 0xFFF < (State.reset.setI 0xFF1).i.toNat + (15 : Reg).val := by
  decide

/-- The highest I of the first clause and the lowest of the second, for x = F. -/
theorem witness_LoadRegistersReadsRange :
    (State.reset.setI 0xFF0).i.toNat + (15 : Reg).val ≤ 0xFFF ∧ 0xFFF < (State.reset.setI 0xFF1).i.toNat + (15 : Reg).val := by
  decide

theorem witness_StoreThenLoadRestoresRegisters :
    let s := (regs [(0, 0x11), (1, 0x22)]).setI 0xFFE
    ∃ t, exec (.storeRegs 1) s = .next t ∧ ∃ u : State, u.i = s.i ∧
      ∀ r : Reg, r ≤ 1 → u.readByte (s.i.toNat + r.val) = t.readByte (s.i.toNat + r.val) := by
  obtain ⟨t, h, hi⟩ := exists_of_next (r := exec (.storeRegs 1) ((regs [(0, 0x11), (1, 0x22)]).setI 0xFFE))
    (p := fun t => t.i == 0xFFE) (by decide)
  exact ⟨t, h, t, by simpa using hi, fun _ _ => rfl⟩

theorem witness_StoredBytesAreFetchedNext :
    1 ≤ (1 : Reg).val ∧
    ∃ t, exec (.storeRegs 1) ((regs [(0, 0x60), (1, 0x0A)]).setI 0x200) = .next t ∧ t.pc = t.i := by
  obtain ⟨t, h, hi⟩ := exists_of_next (r := exec (.storeRegs 1) ((regs [(0, 0x60), (1, 0x0A)]).setI 0x200))
    (p := fun t => t.pc == t.i) (by decide)
  exact ⟨by decide, t, h, by simpa using hi⟩

/-- n = 0 at the top of RAM, the highest I for n = F and the lowest that faults; and a sprite bit that lands on a lit
pixel. -/
theorem witness_DrawFlipsCoveredPixels :
    (State.reset.setI 0xFF1).i.toNat + 15 - 1 ≤ 0xFFF ∧ 0xFFF < (State.reset.setI 0xFF2).i.toNat + 15 - 1 ∧
    (∃ r c row col, Lands { State.reset with fb := Screen.blank.setPixel 0 0 true } 0 0 1 row col r c ∧
      ({ State.reset with fb := Screen.blank.setPixel 0 0 true } : State).fb.pixel r c = true) ∧
    ¬ ∃ row col, Lands State.reset 0 0 0 row col 5 5 := by
  refine ⟨by decide, by decide, ⟨0, 0, 0, 0, ?_, by decide⟩, fun ⟨row, col, h, _⟩ => by omega⟩
  exact ⟨by decide, by decide, by decide, by decide, by decide⟩

theorem witness_DrawingTwiceRestoresScreen :
    5 < 16 ∧ (0 : Reg) ≠ 15 ∧ (1 : Reg) ≠ 15 ∧
    (∃ t u, exec (.drw 0 1 5) State.reset = .next t ∧ exec (.drw 0 1 5) t = .next u) ∧
    (∀ r c, State.reset.fb.pixel r c = false) ∧ ∃ r c row col, Lands State.reset 0 1 5 row col r c := by
  refine ⟨by decide, by decide, by decide, ⟨_, _, rfl, rfl⟩, fun r c => Screen.pixel_blank r c, 0, 0, 0, 0, ?_⟩
  exact ⟨by decide, by decide, by decide, by decide, by decide⟩

/-- Each key of the first and the last register value, pressed and released. -/
theorem witness_KeySkipsTestOneKey :
    ((keyA (regs [(1, 0xFA)])).readV 1).toNat % 16 = (10 : Key).val ∧ (keyA (regs [(1, 0xFA)])).keys[10] = true ∧
    ((regs [(1, 0x0F)]).readV 1).toNat % 16 = (15 : Key).val ∧ (regs [(1, 0x0F)]).keys[15] = false := by decide

theorem witness_KeyPressCompletesWait : ∃ t, exec (.ldVxK 5) State.reset = .next t := ⟨_, rfl⟩

theorem witness_OnlyKeyPressOrResetEndsWait :
    (State.reset.awaitKey 5).waiting = true ∧
    (∃ t, transact (.keyPress 15) (State.reset.awaitKey 5) = .next t ∧ t.waiting = false) ∧
    ∃ t, transact .reset (State.reset.awaitKey 5) = .next t ∧ t.waiting = false :=
  ⟨rfl, ⟨_, rfl, rfl⟩, ⟨_, rfl, rfl⟩⟩

theorem witness_KeyEventsSetAndClearKeys :
    State.reset.waiting = false ∧ (State.reset.awaitKey 15).waiting = true ∧ (-1 : Int) < 0 ∧ (15 : Int) < 16 := by decide

/-- A paused cycle, and one whose steps all have a next state: unknown words of empty RAM. -/
theorem witness_CycleRunsSpeedStepsThenTicks :
    ({ State.reset with paused := true } : State).paused = true ∧
    State.reset.paused = false ∧ ∃ u, Host.Core.run Sys2Proof.core State.reset.speed State.reset = .next u :=
  ⟨rfl, rfl, _, rfl⟩

theorem witness_WaitingCyclesOnlyTick :
    (State.reset.awaitKey 0).waiting = true ∧ (State.reset.awaitKey 0).paused = false := by decide

theorem witness_WaitingRunsStandStill : (State.reset.awaitKey 0).waiting = true := by decide

/-- The longest image that fits, and the shortest that does not. -/
theorem witness_LoadRomStoresImageOrRejects :
    (List.replicate 3584 (1 : Byte)).length ≤ 3584 ∧ 3584 < (List.replicate 3585 (1 : Byte)).length := by
  rw [List.length_replicate, List.length_replicate]
  decide

/-- Both ends of each clause on `SetSpeed`. -/
theorem witness_HostControlsWriteOneElement :
    (1 : Int) ≤ 1 ∧ (100 : Int) ≤ 100 ∧ (0 : Int) < 1 ∧ (100 : Int) < 101 := by decide

/-- The ranges of addresses in R300: the last of the font and the first of the rest. -/
theorem witness_ResetGivesEveryElement : 0x4F < 0x50 ∧ 0x50 ≤ 0x50 := by decide

/-- A step from a state that meets the invariant, onto one that waits. -/
theorem witness_StepPreservesMachineForm :
    let s := State.reset.withFetchWord 16 0xF50A
    Inv s ∧ ∃ t, step s = .next t ∧ t.waiting = true :=
  ⟨⟨by decide, by decide, by decide⟩, _, rfl, rfl⟩

theorem witness_TransactionsPreserveMachineForm :
    Inv State.reset ∧ ∃ t, transact (.setSpeed 100) State.reset = .next t := ⟨⟨by decide, by decide, by decide⟩, _, rfl⟩

theorem witness_ReachableStatesHaveMachineForm : Reachable State.reset := ⟨[], rfl⟩

/-- A clean run of one step: a load. -/
theorem witness_CleanStepsMeetTheConditions :
    CleanRun 1 (State.reset.withFetchWord 16 0x600A) ∧ (State.reset.awaitKey 0).waiting = true :=
  ⟨⟨⟨⟨_, rfl⟩, by decide⟩, fun _ _ => trivial⟩, rfl⟩

theorem witness_CanonicalMemoriesAreDeterminedByReads :
    Memory.wf [(0x200, 0x60)] ∧ Memory.wf [(0x200, 0x60)] ∧ ∀ a, Memory.read [(0x200, 0x60)] a = Memory.read [(0x200, 0x60)] a :=
  ⟨by decide, by decide, fun _ => rfl⟩

theorem witness_RegisterWritersAreTheListedOnes :
    ∃ t, exec (.ldImm 3 0x0A) State.reset = .next t ∧ t.readV 3 ≠ State.reset.readV 3 := by
  obtain ⟨t, h, hv⟩ := exists_of_next (r := exec (.ldImm 3 0x0A) State.reset)
    (p := fun t => decide (t.readV 3 ≠ State.reset.readV 3)) (by decide)
  exact ⟨t, h, of_decide_eq_true hv⟩

theorem witness_RamWritersAreTheListedOnes :
    ∃ t, exec (.ldB 0) ((regs [(0, 0xFF)]).setI 0x300) = .next t ∧
      t.readByte 0x302 ≠ ((regs [(0, 0xFF)]).setI 0x300).readByte 0x302 := by
  obtain ⟨t, h, hv⟩ := exists_of_next (r := exec (.ldB 0) ((regs [(0, 0xFF)]).setI 0x300))
    (p := fun t => decide (t.readByte 0x302 ≠ ((regs [(0, 0xFF)]).setI 0x300).readByte 0x302)) (by decide)
  exact ⟨t, h, of_decide_eq_true hv⟩

/-- For each clause, an instruction and a state in which the element it speaks of changes. -/
theorem witness_OtherWritersAreTheListedOnes :
    next (exec (.ldI 0x300) State.reset) (fun t => t.i != State.reset.i) = true ∧
    next (exec (.call 0x300) State.reset) (fun t => t.stack != State.reset.stack && t.sp != State.reset.sp) = true ∧
    next (exec .ret stacked) (fun t => t.sp != stacked.sp) = true ∧
    next (exec (.ldDtVx 0) (regs [(0, 1)])) (fun t => t.dt != (regs [(0, 1)]).dt) = true ∧
    next (exec (.ldStVx 0) (regs [(0, 1)])) (fun t => t.st != (regs [(0, 1)]).st) = true ∧
    next (exec (.drw 0 0 1) State.reset) (fun t => t.fb != State.reset.fb && t.drawFlag != State.reset.drawFlag) = true ∧
    next (exec (.ldVxK 5) State.reset)
      (fun t => t.waiting != State.reset.waiting && t.keyReg != State.reset.keyReg) = true ∧
    next (exec (.rnd 0 0xFF) State.reset) (fun t => t.draws != State.reset.draws) = true := by decide

theorem witness_HostBitsDoNotInfluenceInstructions :
    (∃ t, exec .cls State.reset = .next t) ∧ ∃ f, exec (.ldB 0) (State.reset.setI 0xFFE) = .fault f := ⟨⟨_, rfl⟩, ⟨_, rfl⟩⟩

end Sys2Proof.Tests
end

section
/-! SUPPORT. What an instruction does, said once for all 34: the access it makes, the state it leaves when that access ends
inside RAM, and which parts of the state it may write (the "written by" column of the table of 10_state.md). -/

namespace Sys2Proof.Machine

/-- How many bytes from I on an instruction accesses; 0 for all but DXYN, FX33, FX55 and FX65 (20_memory.md R68). -/
def instrAccess : Instr → Nat
  | .drw _ _ n => n
  | .ldB _ => 3
  | .storeRegs x | .loadRegs x => x.val + 1
  | _ => 0

/-- The state an instruction leaves unless its access fails the check. -/
def instrEffect (i : Instr) (s : State) : State :=
  match i with
  | .cls => s.present Screen.blank
  | .ret => if s.sp = 0 then s else s.pop.setPc s.stackTop.toNat
  | .jp nnn => s.setPc nnn
  | .call nnn => if s.sp = 16 then s else (s.push s.pc).setPc nnn
  | .seImm x nn => s.skipIf ((s.readV x).toNat == nn)
  | .sneImm x nn => s.skipIf ((s.readV x).toNat != nn)
  | .seReg x y => s.skipIf (s.readV x == s.readV y)
  | .sneReg x y => s.skipIf (s.readV x != s.readV y)
  | .ldImm x nn => s.writeV x (imm8 nn)
  | .addImm x nn => s.writeV x (s.readV x + imm8 nn)
  | .ldReg x y => s.writeV x (s.readV y)
  | .orReg x y => s.writeV x (s.readV x ||| s.readV y)
  | .andReg x y => s.writeV x (s.readV x &&& s.readV y)
  | .xorReg x y => s.writeV x (s.readV x ^^^ s.readV y)
  | .addReg x y => s.writeResultThenFlag x (s.readV x + s.readV y) (flagByte (carry (s.readV x) (s.readV y)))
  | .subReg x y => s.writeResultThenFlag x (s.readV x - s.readV y) (flagByte (strictlyGreater (s.readV x) (s.readV y)))
  | .shr x _ => s.writeResultThenFlag x (s.readV x >>> 1) (flagByte (bit0 (s.readV x)))
  | .subn x y => s.writeResultThenFlag x (s.readV y - s.readV x) (flagByte (strictlyGreater (s.readV y) (s.readV x)))
  | .shl x _ => s.writeResultThenFlag x (s.readV x <<< 1) (flagByte (bit7 (s.readV x)))
  | .ldI nnn => s.setI nnn
  | .jpV0 nnn => s.setPc (nnn + (s.readV 0).toNat)
  | .rnd x nn => (s.writeV x (s.randomByte &&& imm8 nn)).countDraw
  | .drw x y n => (s.present (s.sprite x y n).1).writeV flagReg (flagByte (s.sprite x y n).2)
  | .skp x => s.skipIf (s.keyDown x)
  | .sknp x => s.skipIf (!s.keyDown x)
  | .ldVxDt x => s.writeV x s.dt
  | .ldVxK x => s.awaitKey x
  | .ldDtVx x => s.setDt (s.readV x)
  | .ldStVx x => s.setSt (s.readV x)
  | .addI x =>
    if indexOverflow (s.base + (s.readV x).toNat) then
      (s.setI (s.base + (s.readV x).toNat)).writeV flagReg (flagByte true)
    else s.setI (s.base + (s.readV x).toNat)
  | .ldF x => s.setI (glyphAddress (lowNibble (s.readV x)))
  | .ldB x => s.storeBytes s.base (bcdDigits (s.readV x))
  | .storeRegs x => s.storeBytes s.base (s.firstRegs x)
  | .loadRegs x => s.loadFrom s.base 0 (x.val + 1)

/-- Executing an instruction is one checked access and then its effect: the access is the only thing that can stop it. -/
theorem exec_eq_accessing (i : Instr) (s : State) : exec i s = accessing s.base (instrAccess i) (instrEffect i s) := by
  cases i with
  | ret =>
    by_cases h : s.sp = 0 <;>
      simp [exec, execRet, retDiagnostic, instrEffect, instrAccess, accessing_next, h]
  | call nnn =>
    by_cases h : s.sp = 16 <;>
      simp [exec, execCall, callDiagnostic, instrEffect, instrAccess, accessing_next, h]
  | addI x => simp only [exec, execAddI, instrEffect]; split <;> rfl
  | _ => rfl

/-- If an instruction answers a next state, that is its effect, and its access is empty or ends inside RAM. -/
theorem exec_inv {i : Instr} {s t : State} (h : exec i s = .next t) :
    t = instrEffect i s ∧ (instrAccess i = 0 ∨ s.base + instrAccess i ≤ Config.ramSize) :=
  accessing_inv (exec_eq_accessing i s ▸ h)

/-- The parts of the state that an instruction may write (10_state.md R20 to R36). -/
def instrWrites (i : Instr) (s : State) (p : Part) : Prop :=
  match i with
  | .cls => p = .drawFlag ∨ ∃ r c, p = .pixel r c
  | .ret => p = .pc ∨ p = .sp
  | .call _ => p = .pc ∨ p = .sp ∨ ∃ k : Fin 16, k.val = s.sp.val ∧ p = .stack k
  | .jp _ | .jpV0 _ | .seImm _ _ | .sneImm _ _ | .seReg _ _ | .sneReg _ _ | .skp _ | .sknp _ => p = .pc
  | .ldImm x _ | .addImm x _ | .ldReg x _ | .orReg x _ | .andReg x _ | .xorReg x _ | .ldVxDt x => p = .v x
  | .addReg x _ | .subReg x _ | .shr x _ | .subn x _ | .shl x _ => p = .v x ∨ p = .v 15
  | .ldI _ | .ldF _ => p = .i
  | .rnd x _ => p = .v x ∨ p = .draws
  | .drw _ _ _ => p = .v 15 ∨ p = .drawFlag ∨ ∃ r c, p = .pixel r c
  | .ldVxK _ => p = .waiting ∨ p = .keyReg
  | .ldDtVx _ => p = .dt
  | .ldStVx _ => p = .st
  | .addI x => p = .i ∨ (p = .v 15 ∧ 0xFFF < s.i.toNat + (s.readV x).toNat)
  | .ldB _ => ∃ k, k < 3 ∧ p = .byte (s.i.toNat + k)
  | .storeRegs x => ∃ r : Reg, r ≤ x ∧ p = .byte (s.i.toNat + r.val)
  | .loadRegs x => ∃ r : Reg, r ≤ x ∧ p = .v r

/-! ### Frames: reflexive, transitive, and one for each update of the state -/

theorem Part.agree_refl (p : Part) (s : State) : p.agree s s := by cases p <;> rfl

theorem Part.agree_trans {p : Part} {s t u : State} (h : p.agree s t) (h2 : p.agree t u) : p.agree s u := by
  cases p <;> exact Eq.trans h2 h

theorem SameBut.refl (may : Part → Prop) (s : State) : SameBut may s s := fun p _ => p.agree_refl s

theorem SameBut.trans {may : Part → Prop} {s t u : State} (h : SameBut may s t) (h2 : SameBut may t u) :
    SameBut may s u := fun p hp => Part.agree_trans (h p hp) (h2 p hp)

theorem SameBut.mono {may may' : Part → Prop} {s t : State} (h : SameBut may s t) (hsub : ∀ p, may p → may' p) :
    SameBut may' s t := fun p hp => h p (fun hm => hp (hsub p hm))

theorem sameBut_writeV (s : State) (x : Reg) (b : Byte) : SameBut (fun p => p = .v x) s (s.writeV x b) := by
  intro p hp
  cases p with
  | v r => exact (s.readV_writeV x r b).trans (if_neg fun e => hp (congrArg Part.v e))
  | _ => rfl

theorem sameBut_writeResultThenFlag (s : State) (x : Reg) (res flag : Byte) :
    SameBut (fun p => p = .v x ∨ p = .v 15) s (s.writeResultThenFlag x res flag) :=
  ((sameBut_writeV s x res).mono fun _ => .inl).trans ((sameBut_writeV _ flagReg flag).mono fun _ => .inr)

theorem sameBut_setI (s : State) (n : Nat) : SameBut (fun p => p = .i) s (s.setI n) := by
  intro p hp
  cases p with
  | i => exact absurd rfl hp
  | _ => rfl

theorem sameBut_setPc (s : State) (n : Nat) : SameBut (fun p => p = .pc) s (s.setPc n) := by
  intro p hp
  cases p with
  | pc => exact absurd rfl hp
  | _ => rfl

theorem sameBut_skipIf (s : State) (c : Bool) : SameBut (fun p => p = .pc) s (s.skipIf c) := by
  cases c with
  | false => exact .refl _ s
  | true => exact sameBut_setPc s _

theorem sameBut_setDt (s : State) (b : Byte) : SameBut (fun p => p = .dt) s (s.setDt b) := by
  intro p hp
  cases p with
  | dt => exact absurd rfl hp
  | _ => rfl

theorem sameBut_setSt (s : State) (b : Byte) : SameBut (fun p => p = .st) s (s.setSt b) := by
  intro p hp
  cases p with
  | st => exact absurd rfl hp
  | _ => rfl

theorem sameBut_awaitKey (s : State) (x : Reg) : SameBut (fun p => p = .waiting ∨ p = .keyReg) s (s.awaitKey x) := by
  intro p hp
  cases p with
  | waiting => exact absurd (.inl rfl) hp
  | keyReg => exact absurd (.inr rfl) hp
  | _ => rfl

theorem sameBut_present (s : State) (fb : Screen) :
    SameBut (fun p => p = .drawFlag ∨ ∃ r c, p = .pixel r c) s (s.present fb) := by
  intro p hp
  cases p with
  | drawFlag => exact absurd (.inl rfl) hp
  | pixel r c => exact absurd (.inr ⟨r, c, rfl⟩) hp
  | _ => rfl

theorem sameBut_countDraw (s : State) : SameBut (fun p => p = .draws) s s.countDraw := by
  intro p hp
  cases p with
  | draws => exact absurd rfl hp
  | _ => rfl

/-- A push leaves every stack entry but the one at SP (10_state.md R24). -/
theorem sameBut_push (s : State) (a : Addr) :
    SameBut (fun p => p = .sp ∨ ∃ k : Fin 16, k.val = s.sp.val ∧ p = .stack k) s (s.push a) := by
  intro p hp
  cases p with
  | sp => exact absurd (.inl rfl) hp
  | stack k =>
    have hk : s.sp.val ≠ k.val := fun e => hp (.inr ⟨k, e.symm, rfl⟩)
    exact Vector.getElem_setIfInBounds_ne k.isLt hk
  | _ => rfl

theorem sameBut_pop (s : State) : SameBut (fun p => p = .sp) s s.pop := by
  intro p hp
  cases p with
  | sp => exact absurd rfl hp
  | _ => rfl

theorem sameBut_storeBytes (s : State) (base : Nat) (bs : List Byte) :
    SameBut (fun p => ∃ k, k < bs.length ∧ p = .byte (base + k)) s (s.storeBytes base bs) := by
  intro p hp
  cases p with
  | byte a =>
    refine s.readByte_storeBytes_outside base a bs ?_
    by_contra hin
    exact hp ⟨a - base, by omega, by rw [Nat.add_sub_cancel' (by omega)]⟩
  | _ => rfl

/-- FX65's loop from V0 on leaves everything but the registers it loads (43_index_memory.md R195). -/
theorem sameBut_loadFrom (s : State) (base : Nat) (x : Reg) :
    SameBut (fun p => ∃ r : Reg, r ≤ x ∧ p = .v r) s (s.loadFrom base 0 (x.val + 1)) := by
  intro p hp
  cases p with
  | v r =>
    have hr : ¬ r.val ≤ x.val := fun h => hp ⟨r, h, rfl⟩
    exact (s.readV_loadFrom base 0 (x.val + 1) (by omega) r).trans (if_neg (by omega))
  | _ => simp [Part.agree, State.readByte]

/-! ### The frame of every instruction -/

/-- An instruction's effect changes nothing but the parts it may write. -/
theorem sameBut_instrEffect (i : Instr) (s : State) : SameBut (instrWrites i s) s (instrEffect i s) := by
  cases i with
  | cls => exact sameBut_present s _
  | ret =>
    simp only [instrEffect]
    split
    · exact .refl _ s
    · exact ((sameBut_pop s).mono fun _ => .inr).trans ((sameBut_setPc _ _).mono fun _ => .inl)
  | call nnn =>
    simp only [instrEffect]
    split
    · exact .refl _ s
    · exact ((sameBut_push s _).mono fun _ => .inr).trans ((sameBut_setPc _ nnn).mono fun _ => .inl)
  | jp _ | jpV0 _ => exact sameBut_setPc s _
  | seImm _ _ | sneImm _ _ | seReg _ _ | sneReg _ _ | skp _ | sknp _ => exact sameBut_skipIf s _
  | ldImm x _ | addImm x _ | ldReg x _ | orReg x _ | andReg x _ | xorReg x _ | ldVxDt x => exact sameBut_writeV s x _
  | addReg x _ | subReg x _ | shr x _ | subn x _ | shl x _ => exact sameBut_writeResultThenFlag s x _ _
  | ldI _ | ldF _ => exact sameBut_setI s _
  | rnd x _ => exact ((sameBut_writeV s x _).mono fun _ => .inl).trans ((sameBut_countDraw _).mono fun _ => .inr)
  | drw _ _ _ =>
    exact ((sameBut_present s _).mono fun _ => .inr).trans ((sameBut_writeV _ flagReg _).mono fun _ => .inl)
  | ldVxK x => exact sameBut_awaitKey s x
  | ldDtVx _ => exact sameBut_setDt s _
  | ldStVx _ => exact sameBut_setSt s _
  | addI x =>
    have hI : SameBut (instrWrites (.addI x) s) s (s.setI (s.base + (s.readV x).toNat)) :=
      (sameBut_setI s _).mono fun _ => .inl
    simp only [instrEffect]
    split
    · next hov => exact hI.trans ((sameBut_writeV _ flagReg _).mono fun _ e => .inr ⟨e, (indexOverflow_iff _).1 hov⟩)
    · exact hI
  | ldB x => exact sameBut_storeBytes s s.base (bcdDigits (s.readV x))
  | storeRegs x =>
    refine (sameBut_storeBytes s s.base (s.firstRegs x)).mono ?_
    rintro p ⟨k, hk, rfl⟩
    rw [State.firstRegs_length] at hk
    exact ⟨⟨k, by omega⟩, Nat.le_of_lt_succ hk, rfl⟩
  | loadRegs x => exact sameBut_loadFrom s _ x

/-- An executed instruction changes nothing but the parts it may write. -/
theorem exec_sameBut {i : Instr} {s t : State} (h : exec i s = .next t) : SameBut (instrWrites i s) s t := by
  obtain ⟨rfl, -⟩ := exec_inv h
  exact sameBut_instrEffect i s

/-- A part that an executed instruction changed is one it may write. -/
theorem instrWrites_of_changed {i : Instr} {s t : State} (h : exec i s = .next t) (p : Part) (hp : ¬ p.agree s t) :
    instrWrites i s p := by
  by_contra hn
  exact hp (exec_sameBut h p hn)

end Sys2Proof.Machine
end

section
/-! SUPPORT. The "written by" column of the table of 10_state.md, element by element, and the statements about which
instructions write what (10_state.md R20 to R35). -/

namespace Sys2Proof.Machine

/-! ### Which instructions may write an element -/

section
variable {i : Instr} {s : State}

theorem instrWrites_v (r : Reg) : instrWrites i s (.v r) ↔
    (∃ nn, i = .ldImm r nn) ∨ (∃ nn, i = .addImm r nn) ∨ (∃ nn, i = .rnd r nn) ∨ i = .ldVxDt r ∨
    (∃ y, i = .ldReg r y ∨ i = .orReg r y ∨ i = .andReg r y ∨ i = .xorReg r y) ∨
    (∃ x y, (i = .addReg x y ∨ i = .subReg x y ∨ i = .shr x y ∨ i = .subn x y ∨ i = .shl x y) ∧ (r = x ∨ r = 15)) ∨
    (∃ x, i = .loadRegs x ∧ r ≤ x) ∨ (r = 15 ∧ ∃ x y n, i = .drw x y n) ∨
    (r = 15 ∧ ∃ x, i = .addI x ∧ 0xFFF < s.i.toNat + (s.readV x).toNat) := by
  cases i <;> simp [instrWrites, eq_comm]

theorem instrWrites_i : instrWrites i s .i ↔ (∃ nnn, i = .ldI nnn) ∨ (∃ x, i = .addI x) ∨ ∃ x, i = .ldF x := by
  cases i <;> simp [instrWrites]

theorem instrWrites_stack (k : Fin 16) : instrWrites i s (.stack k) ↔ k.val = s.sp.val ∧ ∃ nnn, i = .call nnn := by
  cases i <;> simp [instrWrites]

theorem instrWrites_sp : instrWrites i s .sp ↔ i = .ret ∨ ∃ nnn, i = .call nnn := by
  cases i <;> simp [instrWrites]

theorem instrWrites_dt : instrWrites i s .dt ↔ ∃ x, i = .ldDtVx x := by
  cases i <;> simp [instrWrites]

theorem instrWrites_st : instrWrites i s .st ↔ ∃ x, i = .ldStVx x := by
  cases i <;> simp [instrWrites]

theorem instrWrites_pixel (r : Fin 32) (c : Fin 64) :
    instrWrites i s (.pixel r c) ↔ i = .cls ∨ ∃ x y n, i = .drw x y n := by
  cases i <;> simp [instrWrites]

theorem instrWrites_drawFlag : instrWrites i s .drawFlag ↔ i = .cls ∨ ∃ x y n, i = .drw x y n := by
  cases i <;> simp [instrWrites]

theorem instrWrites_waiting : instrWrites i s .waiting ↔ ∃ x, i = .ldVxK x := by
  cases i <;> simp [instrWrites]

theorem instrWrites_keyReg : instrWrites i s .keyReg ↔ ∃ x, i = .ldVxK x := by
  cases i <;> simp [instrWrites]

theorem instrWrites_draws : instrWrites i s .draws ↔ ∃ x nn, i = .rnd x nn := by
  cases i <;> simp [instrWrites]

theorem not_instrWrites_key (k : Key) : ¬ instrWrites i s (.key k) := by
  cases i <;> simp [instrWrites]

theorem not_instrWrites_paused : ¬ instrWrites i s .paused := by
  cases i <;> simp [instrWrites]

theorem not_instrWrites_speed : ¬ instrWrites i s .speed := by
  cases i <;> simp [instrWrites]

theorem not_instrWrites_lastOp : ¬ instrWrites i s .lastOp := by
  cases i <;> simp [instrWrites]

/-! ### What changed, as a part that changed -/

theorem exists_stack_ne {s t : State} (h : t.stack ≠ s.stack) : ∃ k, ¬ (Part.stack k).agree s t := by
  by_contra! hall
  exact h (Vector.ext fun k hk => hall ⟨k, hk⟩)

theorem exists_pixel_ne {s t : State} (h : t.fb ≠ s.fb) : ∃ r c, ¬ (Part.pixel r c).agree s t := by
  by_contra! hall
  exact h (Screen.ext_pixel hall)

end

/-! ### Elements of the state after an executed instruction -/

section
variable {i : Instr} {s t : State} (h : exec i s = .next t)
include h

theorem exec_keys : t.keys = s.keys :=
  Vector.ext fun k hk => exec_sameBut h (.key ⟨k, hk⟩) (not_instrWrites_key _)

theorem exec_paused : t.paused = s.paused := exec_sameBut h .paused not_instrWrites_paused

theorem exec_speed : t.speed = s.speed := exec_sameBut h .speed not_instrWrites_speed

theorem exec_lastOp : t.lastOp = s.lastOp := exec_sameBut h .lastOp not_instrWrites_lastOp

/-- Only FX0A touches the wait, and it begins one for its register (10_state.md R31, R32). -/
theorem exec_begins_wait (hw : t.waiting ≠ s.waiting ∨ t.keyReg ≠ s.keyReg) :
    ∃ x, i = .ldVxK x ∧ t.waiting = true ∧ t.keyReg = x := by
  have hi : ∃ x, i = .ldVxK x := by
    rcases hw with hw | hw
    · exact instrWrites_waiting.1 (instrWrites_of_changed h .waiting hw)
    · exact instrWrites_keyReg.1 (instrWrites_of_changed h .keyReg hw)
  obtain ⟨x, rfl⟩ := hi
  obtain ⟨rfl, -⟩ := exec_inv h
  exact ⟨x, rfl, rfl, rfl⟩

end

/-- Settles O56: a register that changed is one the instruction may write. -/
theorem registerWritersAreTheListedOnes : Obligations.RegisterWritersAreTheListedOnes :=
  fun _ _ _ r h hr => (instrWrites_v r).1 (instrWrites_of_changed h (.v r) hr)

/-- Settles O58: an element that changed is one the instruction may write; the stack and the screen change at some entry. -/
theorem otherWritersAreTheListedOnes : Obligations.OtherWritersAreTheListedOnes := by
  intro i s t h
  have writes : ∀ p : Part, ¬ p.agree s t → instrWrites i s p := instrWrites_of_changed h
  refine ⟨fun hi => instrWrites_i.1 (writes .i hi), fun hstack => ?stack,
    fun hsp => instrWrites_sp.1 (writes .sp hsp),
    fun hdt => instrWrites_dt.1 (writes .dt hdt),
    fun hst => instrWrites_st.1 (writes .st hst), fun hscreen => ?screen,
    exec_begins_wait h,
    fun hdraws => instrWrites_draws.1 (writes .draws hdraws),
    exec_keys h, exec_paused h, exec_speed h, exec_lastOp h⟩
  case stack =>
    obtain ⟨k, hk⟩ := exists_stack_ne hstack
    exact ((instrWrites_stack k).1 (writes _ hk)).2
  case screen =>
    rcases hscreen with hfb | hflag
    · obtain ⟨r, c, hrc⟩ := exists_pixel_ne hfb
      exact (instrWrites_pixel r c).1 (writes _ hrc)
    · exact instrWrites_drawFlag.1 (writes .drawFlag hflag)

end Sys2Proof.Machine
end

section
/-! SUPPORT. Every step keeps the invariant (10_state.md R32, R35, R40; log 4, log 16). -/

namespace Sys2Proof.Machine

/-- An instruction whose access passes the check keeps the canonical form of RAM: only FX33 and FX55 store, inside RAM. -/
theorem instrEffect_mem_wf {i : Instr} {s : State} (hwf : s.mem.wf)
    (hacc : instrAccess i = 0 ∨ s.base + instrAccess i ≤ Config.ramSize) : (instrEffect i s).mem.wf := by
  cases i with
  | ldB x => exact Memory.writeBytes_wf hwf (hacc.resolve_left (by simp [instrAccess]))
  | storeRegs x =>
    have hlen := State.firstRegs_length s x
    exact Memory.writeBytes_wf hwf (hlen ▸ hacc.resolve_left (by simp [instrAccess]))
  | ret | call _ | addI _ => simp only [instrEffect]; split <;> exact hwf
  | seImm _ _ | sneImm _ _ | seReg _ _ | sneReg _ _ | skp _ | sknp _ => exact (s.skipIf_mem _).symm ▸ hwf
  | loadRegs x => exact (s.loadFrom_mem _ _ _).symm ▸ hwf
  | _ => exact hwf

theorem exec_mem_wf {i : Instr} {s t : State} (hwf : s.mem.wf) (h : exec i s = .next t) : t.mem.wf := by
  obtain ⟨rfl, hacc⟩ := exec_inv h
  exact instrEffect_mem_wf hwf hacc

/-- The fetch of a step that does not wait keeps the invariant: it writes PC and `last_op` only, and no wait is on. -/
theorem Inv.fetched {s : State} (hinv : Inv s) (hw : s.waiting = false) : Inv s.fetched where
  mem_wf := hinv.mem_wf
  speed_range := hinv.speed_range
  waiting_op h := by simp [hw] at h

/-- Executing the instruction that `last_op` holds, with no wait on, keeps the invariant: a wait that is on afterwards was
begun by this very instruction. -/
theorem Inv.exec {i : Instr} {s t : State} (hinv : Inv s) (hw : s.waiting = false) (hop : decodeWord s.lastOp = some i)
    (h : exec i s = .next t) : Inv t where
  mem_wf := exec_mem_wf hinv.mem_wf h
  speed_range := exec_speed h ▸ hinv.speed_range
  waiting_op ht := by
    obtain ⟨x, rfl, -, hx⟩ := exec_begins_wait h (.inl (by simp [ht, hw]))
    rw [exec_lastOp h, hop, hx]

theorem Inv.step {s t : State} (hinv : Inv s) (h : step s = .next t) : Inv t := by
  rcases step_cases s with ⟨-, hs⟩ | ⟨-, -, hs⟩ | ⟨hw, -, -, hs⟩ | ⟨i, hw, -, hd, hs⟩ <;> rw [hs] at h
  · cases h; exact hinv
  · cases h
  · cases h; exact hinv.fetched hw
  · exact (hinv.fetched hw).exec hw hd h

/-- Settles O49: by cases on what a step can do. -/
theorem stepPreservesMachineForm : Obligations.StepPreservesMachineForm := fun _ _ => Inv.step

end Sys2Proof.Machine
end

section
/-! SUPPORT. While `waiting` is set steps do nothing, and what ends a wait (10_state.md R31, 40_fetch_step_cycle.md R121). -/

namespace Sys2Proof.Machine

theorem stepReport_waiting {s : State} (hw : s.waiting = true) : stepReport s = none := by
  simp [stepReport, hw]

theorem batch_waiting (n : Nat) {s : State} (hw : s.waiting = true) : batch n s = .next s := by
  induction n with
  | zero => rfl
  | succ n ih => rw [batch_succ (step_waiting hw), ih]

theorem batchReport_waiting (n : Nat) {s : State} (hw : s.waiting = true) : batchReport n s = [] := by
  induction n with
  | zero => rfl
  | succ n ih => simp [batchReport, stepReport_waiting hw, step_waiting hw, ih]

/-- Settles O45: the run is a batch, and a batch of steps that wait stands still, by induction on its length. -/
theorem waitingRunsStandStill : Obligations.WaitingRunsStandStill :=
  fun k s hw => ⟨batch_eq_run k s ▸ batch_waiting k hw, batchReport_waiting k hw⟩

/-- A cycle keeps a wait: its steps do nothing, and the tick writes the timers only (R123, R124). -/
theorem hostCycle_keeps_waiting {s t : State} (hw : s.waiting = true) (h : hostCycle s = .next t) : t.waiting = true := by
  rcases hostCycle_inv h with ⟨-, rfl⟩ | ⟨-, u, hu, rfl⟩
  · exact hw
  · rw [batch_waiting _ hw] at hu
    cases hu
    exact hw

theorem hostLoadRom_waiting {bytes : List Byte} {s t : State} (h : hostLoadRom bytes s = .next t) :
    t.waiting = s.waiting := by
  unfold hostLoadRom at h
  split at h <;> cases h <;> rfl

theorem hostKeyRelease_waiting {k : Int} {s t : State} (h : hostKeyRelease k s = .next t) : t.waiting = s.waiting := by
  unfold hostKeyRelease at h
  split at h <;> cases h <;> rfl

theorem hostSetSpeed_waiting {n : Int} {s t : State} (h : hostSetSpeed n s = .next t) : t.waiting = s.waiting := by
  unfold hostSetSpeed at h
  split at h <;> cases h
  rfl

/-- `KeyPress` of an integer that names no key changes nothing (46_host_interface.md R243). -/
theorem hostKeyPress_out_of_range {k : Int} (s : State) (hk : k < 0 ∨ 15 < k) : hostKeyPress k s = .next s := by
  simp [hostKeyPress, keyOf_none hk]

/-- Settles O41: by cases on the transaction; each but the two keeps the wait. -/
theorem onlyKeyPressOrResetEndsWait : Obligations.OnlyKeyPressOrResetEndsWait := by
  intro a s t hw h ht
  have hends : t.waiting ≠ true := by simp [ht]
  cases a with
  | reset => exact .inl rfl
  | keyPress k =>
    by_cases hk : 0 ≤ k ∧ k ≤ 15
    · exact .inr ⟨k, hk.1, hk.2, rfl⟩
    · cases (hostKeyPress_out_of_range s (by omega)).symm.trans h
      exact absurd hw hends
  | cycle => exact absurd (hostCycle_keeps_waiting hw h) hends
  | step =>
    cases (step_waiting hw).symm.trans h
    exact absurd hw hends
  | loadRom _ => exact absurd ((hostLoadRom_waiting h).trans hw) hends
  | keyRelease _ => exact absurd ((hostKeyRelease_waiting h).trans hw) hends
  | setSpeed _ => exact absurd ((hostSetSpeed_waiting h).trans hw) hends
  | setPaused _ | clearDrawFlag => cases h; exact absurd hw hends

end Sys2Proof.Machine
end

section
/-! SUPPORT. No instruction reads `paused`, `draw_flag`, `last_op` or `speed` (10_state.md R30, R33, R34, R35). -/

namespace Sys2Proof.Machine

/-- The state with other values in the four elements that no instruction reads. -/
def State.withHostBits (s : State) (b d : Bool) (w : Word) (n : Nat) : State :=
  { s with paused := b, lastOp := w, speed := n, drawFlag := d }

section
variable (s : State) (b d : Bool) (w : Word) (n : Nat)

theorem State.sameBut_withHostBits :
    SameBut (fun p => p = .paused ∨ p = .lastOp ∨ p = .speed ∨ p = .drawFlag) s (s.withHostBits b d w n) := by
  intro p hp
  cases p with
  | paused | lastOp | speed | drawFlag => simp at hp
  | _ => rfl

theorem State.skipIf_withHostBits (c : Bool) :
    (s.withHostBits b d w n).skipIf c = (s.skipIf c).withHostBits b d w n := by
  cases c <;> rfl

theorem State.loadFrom_withHostBits (base r k : Nat) :
    (s.withHostBits b d w n).loadFrom base r k = (s.loadFrom base r k).withHostBits b d w n := by
  induction k generalizing s r with
  | zero => rfl
  | succ k ih => exact ih (s.writeV (Fin.ofNat 16 r) (s.readByte (base + r))) (r + 1)

/-- An instruction's effect carries other host bits along: `draw_flag` is the only one it can write, and it does so
without reading it. -/
theorem instrEffect_withHostBits (i : Instr) :
    ∃ d', instrEffect i (s.withHostBits b d w n) = (instrEffect i s).withHostBits b d' w n := by
  cases i with
  | cls | drw _ _ _ => exact ⟨true, rfl⟩
  | ret | call _ | addI _ =>
    refine ⟨d, ?_⟩
    simp only [instrEffect, apply_ite (State.withHostBits · b d w n)]
    rfl
  | seImm _ _ | sneImm _ _ | seReg _ _ | sneReg _ _ | skp _ | sknp _ => exact ⟨d, s.skipIf_withHostBits b d w n _⟩
  | loadRegs _ => exact ⟨d, s.loadFrom_withHostBits b d w n _ _ _⟩
  | _ => exact ⟨d, rfl⟩

end

/-- Settles O59: the access does not depend on the four elements, and the effect carries them along. -/
theorem hostBitsDoNotInfluenceInstructions : Obligations.HostBitsDoNotInfluenceInstructions := by
  intro i s b d w n
  obtain ⟨d', heff⟩ := instrEffect_withHostBits s b d w n i
  have hexec : exec i (s.withHostBits b d w n) =
      accessing s.base (instrAccess i) (instrEffect i (s.withHostBits b d w n)) := exec_eq_accessing i _
  rw [exec_eq_accessing i s]
  rcases accessing_cases s.base (instrAccess i) (instrEffect i s) with ⟨hok, hacc⟩ | ⟨hbad, hlen, htop⟩
  · rw [hok]
    refine ⟨fun t ht => ?_, nofun⟩
    cases ht
    exact ⟨_, hexec.trans ((accessing_next hacc).trans (congrArg _ heff)), State.sameBut_withHostBits _ b d' w n⟩
  · rw [hbad]
    refine ⟨nofun, fun f hf => ?_⟩
    cases hf
    exact hexec.trans (accessing_fault hlen htop)

end Sys2Proof.Machine
end

section
/-! SUPPORT. RAM: a canonical memory is determined by its reads, only FX33 and FX55 write RAM, and bytes stored at PC are
what the next fetch reads (20_memory.md R60, R74; 43_index_memory.md R194, R196; log 4). -/

namespace Sys2Proof.Machine

/-! ### Canonical memories -/

@[simp] theorem Memory.read_cons_self (m : Memory) (a : Nat) (b : Byte) : Memory.read ((a, b) :: m) a = b := if_pos rfl

theorem Memory.read_cons_of_ne {m : Memory} {a k : Nat} (b : Byte) (h : a ≠ k) :
    Memory.read ((k, b) :: m) a = m.read a := if_neg h

theorem Memory.read_of_forall_ne {m : Memory} {a : Nat} (h : ∀ c ∈ m, a ≠ c.1) : m.read a = background a := by
  induction m with
  | nil => rfl
  | cons c m ih =>
    obtain ⟨hc, hm⟩ := List.forall_mem_cons.1 h
    exact (Memory.read_cons_of_ne c.2 hc).trans (ih hm)

theorem Memory.wf_cons {m : Memory} {k : Nat} {b : Byte} : Memory.wf ((k, b) :: m) ↔
    (∀ c ∈ m, k < c.1) ∧ k < Config.ramSize ∧ b ≠ background k ∧ m.wf := by
  simp only [Memory.wf, List.pairwise_cons, List.forall_mem_cons]
  tauto

/-- Below its least listed address a canonical memory reads as after reset. -/
theorem Memory.read_below_head {m : Memory} {a k : Nat} {b : Byte} (h : Memory.wf ((k, b) :: m)) (ha : a < k) :
    Memory.read ((k, b) :: m) a = background a := by
  obtain ⟨hlt, -⟩ := Memory.wf_cons.1 h
  exact Memory.read_of_forall_ne (List.forall_mem_cons.2 ⟨ha.ne, fun c hc => (ha.trans (hlt c hc)).ne⟩)

/-- Of two canonical memories that read the same, the least listed address of one is at most that of the other: there the
other reads something else than after reset. -/
theorem Memory.head_le_of_read_eq {m n : Memory} {j k : Nat} {b c : Byte} (hm : Memory.wf ((j, b) :: m))
    (hn : Memory.wf ((k, c) :: n)) (h : ∀ a, Memory.read ((j, b) :: m) a = Memory.read ((k, c) :: n) a) : j ≤ k := by
  by_contra! hlt
  obtain ⟨-, -, hc, -⟩ := Memory.wf_cons.1 hn
  exact hc (by rw [← Memory.read_below_head hm hlt, h, Memory.read_cons_self])

/-- The canonical memory whose every address reads as after reset lists nothing. -/
theorem Memory.eq_nil_of_read_eq_background {m : Memory} (hm : m.wf) (h : ∀ a, m.read a = background a) : m = [] := by
  cases m with
  | nil => rfl
  | cons c m =>
    obtain ⟨-, -, hc, -⟩ := Memory.wf_cons.1 hm
    exact absurd ((Memory.read_cons_self m c.1 c.2).symm.trans (h c.1)) hc

theorem Memory.ext_read {m n : Memory} (hm : m.wf) (hn : n.wf) (h : ∀ a, m.read a = n.read a) : m = n := by
  induction m generalizing n with
  | nil => exact (Memory.eq_nil_of_read_eq_background hn fun a => (h a).symm).symm
  | cons c m ih =>
    cases n with
    | nil => exact Memory.eq_nil_of_read_eq_background hm h
    | cons d n =>
      obtain ⟨j, b⟩ := c
      obtain ⟨k, e⟩ := d
      obtain rfl : j = k :=
        le_antisymm (Memory.head_le_of_read_eq hm hn h) (Memory.head_le_of_read_eq hn hm fun a => (h a).symm)
      obtain rfl : b = e := by simpa using h j
      obtain ⟨hjm, -, -, hm'⟩ := Memory.wf_cons.1 hm
      obtain ⟨hjn, -, -, hn'⟩ := Memory.wf_cons.1 hn
      have htail : ∀ a, Memory.read m a = Memory.read n a := by
        intro a
        by_cases ha : a = j
        · subst ha
          rw [Memory.read_of_forall_ne fun d hd => (hjm d hd).ne, Memory.read_of_forall_ne fun d hd => (hjn d hd).ne]
        · rw [← Memory.read_cons_of_ne b ha, h a, Memory.read_cons_of_ne b ha]
      rw [ih hm' hn' htail]

/-- Settles O54: by induction on the two lists, whose least listed addresses agree. -/
theorem canonicalMemoriesAreDeterminedByReads : Obligations.CanonicalMemoriesAreDeterminedByReads :=
  fun _ _ => Memory.ext_read

/-! ### Which instructions may write RAM -/

theorem instrWrites_byte {i : Instr} {s : State} (a : Nat) : instrWrites i s (.byte a) ↔
    (∃ x, i = .ldB x ∧ s.i.toNat ≤ a ∧ a ≤ s.i.toNat + 2) ∨
    (∃ x : Reg, i = .storeRegs x ∧ s.i.toNat ≤ a ∧ a ≤ s.i.toNat + x.val) := by
  cases i with
  | ldB x =>
    suffices (∃ k, k < 3 ∧ a = s.i.toNat + k) ↔ s.i.toNat ≤ a ∧ a ≤ s.i.toNat + 2 by simpa [instrWrites]
    exact ⟨fun ⟨k, hk, e⟩ => by omega, fun h => ⟨a - s.i.toNat, by omega, by omega⟩⟩
  | storeRegs x =>
    suffices (∃ r : Reg, r ≤ x ∧ a = s.i.toNat + r.val) ↔ s.i.toNat ≤ a ∧ a ≤ s.i.toNat + x.val by simpa [instrWrites]
    constructor
    · rintro ⟨r, hr, rfl⟩
      exact ⟨Nat.le_add_right .., Nat.add_le_add_left hr _⟩
    · rintro ⟨hlo, hhi⟩
      exact ⟨⟨a - s.i.toNat, by omega⟩, Nat.sub_le_iff_le_add'.2 hhi, (Nat.add_sub_cancel' hlo).symm⟩
  | _ => simp [instrWrites]

/-- Settles O57: a byte that changed is one the instruction may write. -/
theorem ramWritersAreTheListedOnes : Obligations.RamWritersAreTheListedOnes :=
  fun _ _ _ a h ha => (instrWrites_byte a).1 (instrWrites_of_changed h (.byte a) ha)

/-! ### Stored bytes are fetched -/

/-- The word at PC is made of the byte at PC and the next one (20_memory.md R64). -/
theorem State.wordAtPc_eq (s : State) :
    s.wordAtPc = wordOfBytes (s.readByte s.pc.toNat) (s.readByte (s.pc.toNat + 1)) := rfl

/-- FX55 leaves V[r] at I + r (43_index_memory.md R194). -/
theorem readByte_of_exec_storeRegs {x : Reg} {s t : State} (h : exec (.storeRegs x) s = .next t) {r : Reg} (hr : r ≤ x) :
    t.readByte (s.i.toNat + r.val) = s.readV r := by
  obtain ⟨rfl, -⟩ := exec_inv h
  have hin : s.base ≤ s.i.toNat + r.val ∧ s.i.toNat + r.val < s.base + (s.firstRegs x).length := by
    rw [State.firstRegs_length]
    exact ⟨Nat.le_add_right .., Nat.add_lt_add_left (Nat.lt_succ_of_le hr) _⟩
  refine (s.readByte_storeBytes s.base _ (s.firstRegs x)).trans ?_
  rw [if_pos hin, State.base, Nat.add_sub_cancel_left, s.firstRegs_getD x r hr]

/-- Settles O33: the store ends inside RAM and holds two bytes, so PC is below 0xFFF and the fetch reads both. -/
theorem storedBytesAreFetchedNext : Obligations.StoredBytesAreFetchedNext := by
  intro x s t hx h hpc
  have hi : t.i = s.i := exec_sameBut h .i (by simp [instrWrites])
  have hbelow : t.pc ≠ 0xFFF#12 := by
    obtain ⟨-, hacc⟩ := exec_inv h
    intro htop
    have htop' : s.i.toNat = 0xFFF := by rw [← hi, ← hpc, htop]; rfl
    simp only [State.base, instrAccess, Config.ramSize] at hacc
    omega
  have h0 : t.readByte t.pc.toNat = s.readV 0 := by
    rw [hpc, hi]
    exact readByte_of_exec_storeRegs h (Fin.zero_le x)
  have h1 : t.readByte (t.pc.toNat + 1) = s.readV 1 := by
    rw [hpc, hi]
    exact readByte_of_exec_storeRegs h (r := 1) hx
  exact ⟨t.fetched, by rw [fetch_ok hbelow, t.wordAtPc_eq, h0, h1]⟩

end Sys2Proof.Machine
end

section
/-! SUPPORT. The encoding: the operand fields as shifts and masks, the words of the formats rebuilt from their fields,
the decoder against the encoder in both directions, the rows of the opcode map, and the unknown words (30_encoding.md R90
to R97). -/

namespace Sys2Proof

open Laws

/-! ### The fields (R8, R91) -/

theorem field_lt (lo len : Nat) (op : Word) : field lo len op < 2 ^ len := Nat.mod_lt _ (Nat.two_pow_pos len)

theorem major_lt (op : Word) : major op < 16 := field_lt 12 4 op

theorem fieldN_lt (op : Word) : fieldN op < 16 := field_lt 0 4 op

theorem fieldNN_lt (op : Word) : fieldNN op < 256 := field_lt 0 8 op

theorem fieldNNN_lt (op : Word) : fieldNNN op < 4096 := field_lt 0 12 op

theorem fieldX_val (op : Word) : (fieldX op).val = field 8 4 op := Nat.mod_eq_of_lt (field_lt 8 4 op)

theorem fieldY_val (op : Word) : (fieldY op).val = field 4 4 op := Nat.mod_eq_of_lt (field_lt 4 4 op)

/-- The major opcode is what is left above the low 12 bits. -/
theorem major_eq_div (op : Word) : major op = op.toNat / 4096 := Nat.mod_eq_of_lt (by omega)

/-- A field of `len` bits from bit `lo` on is the document's shift right by `lo` and mask of `len` ones. -/
theorem field_eq_shift_mask (lo : Nat) {len : Nat} (h : len ≤ 16) (op : Word) :
    field lo len op = ((op >>> lo) &&& BitVec.ofNat 16 (2 ^ len - 1)).toNat := by
  have hmask : (2 ^ len - 1) % 2 ^ 16 = 2 ^ len - 1 :=
    Nat.mod_eq_of_lt ((Nat.sub_lt (Nat.two_pow_pos len) Nat.one_pos).trans_le (Nat.pow_le_pow_right (by decide) h))
  rw [BitVec.toNat_and, BitVec.toNat_ofNat, hmask, Nat.and_two_pow_sub_one_eq_mod, BitVec.toNat_ushiftRight,
    Nat.shiftRight_eq_div_pow, field]

/-- nn is y and n side by side (R91). -/
theorem fieldNN_eq_fieldY_fieldN (op : Word) : fieldNN op = (fieldY op).val * 16 + fieldN op := by
  rw [fieldY_val]
  simp only [fieldNN, fieldN, field]
  omega

/-- nnn is x, y and n side by side (R91). -/
theorem fieldNNN_eq_fieldX_fieldY_fieldN (op : Word) :
    fieldNNN op = (fieldX op).val * 256 + (fieldY op).val * 16 + fieldN op := by
  rw [fieldX_val, fieldY_val]
  simp only [fieldNNN, fieldN, field]
  omega

/-- Settles O2: every field is one shift and mask, and the overlaps are arithmetic on the word. -/
theorem fieldsAreShiftsAndMasks : Obligations.FieldsAreShiftsAndMasks := fun op =>
  ⟨(fieldX_val op).trans (field_eq_shift_mask 8 (by decide) op),
    (fieldY_val op).trans (field_eq_shift_mask 4 (by decide) op),
    field_eq_shift_mask 0 (by decide) op, field_eq_shift_mask 0 (by decide) op, field_eq_shift_mask 0 (by decide) op,
    (major_eq_div op).trans (by rw [BitVec.toNat_ushiftRight, Nat.shiftRight_eq_div_pow]),
    fieldNN_eq_fieldY_fieldN op, fieldNNN_eq_fieldX_fieldY_fieldN op⟩

/-! ### A word is made of its fields (R92) -/

section
variable {op : Word} {m : Nat}

/-- A word is its major opcode and nnn side by side. -/
theorem toNat_eq_major_fieldNNN (op : Word) : op.toNat = major op * 4096 + fieldNNN op := by
  rw [major_eq_div, fieldNNN, field]
  omega

theorem wordNNN_of_fields (hm : major op = m) : wordNNN m (fieldNNN op) = op := by
  rw [wordNNN, ← hm, ← toNat_eq_major_fieldNNN, BitVec.ofNat_toNat, BitVec.setWidth_eq]

theorem wordXYN_of_fields {n : Nat} (hm : major op = m) (hn : fieldN op = n) :
    wordXYN m (fieldX op) (fieldY op) n = op := by
  refine Eq.trans ?_ (wordNNN_of_fields hm)
  rw [wordXYN, wordNNN, fieldNNN_eq_fieldX_fieldY_fieldN, hn, Nat.add_assoc, Nat.add_assoc, Nat.add_assoc]

theorem wordXNN_of_fields {nn : Nat} (hm : major op = m) (hnn : fieldNN op = nn) : wordXNN m (fieldX op) nn = op := by
  refine Eq.trans ?_ (wordXYN_of_fields hm rfl)
  rw [wordXNN, wordXYN, ← hnn, fieldNN_eq_fieldY_fieldN, Nat.add_assoc _ _ (fieldN op)]

end

/-- The high and the low byte of a word give it back (20_memory.md R64). -/
theorem wordOfBytes_high_low (op : Word) : wordOfBytes (highByte op) (lowByte op) = op := by
  apply BitVec.eq_of_toNat_eq
  simp only [wordOfBytes, highByte, lowByte, BitVec.toNat_ofNat]
  omega

/-! ### The decoder against the encoder -/

/-- The word of a well-formed instruction decodes to it: one law an instruction. -/
theorem decodeWord_encode {i : Instr} (h : i.WellFormed) : decodeWord (encode i) = some i := by
  cases i with
  | cls => exact RoundTrip.cls h
  | ret => exact RoundTrip.ret h
  | jp nnn => exact RoundTrip.jp nnn h
  | call nnn => exact RoundTrip.call nnn h
  | seImm x nn => exact RoundTrip.seImm x nn h
  | sneImm x nn => exact RoundTrip.sneImm x nn h
  | seReg x y => exact RoundTrip.seReg x y h
  | ldImm x nn => exact RoundTrip.ldImm x nn h
  | addImm x nn => exact RoundTrip.addImm x nn h
  | ldReg x y => exact RoundTrip.ldReg x y h
  | orReg x y => exact RoundTrip.orReg x y h
  | andReg x y => exact RoundTrip.andReg x y h
  | xorReg x y => exact RoundTrip.xorReg x y h
  | addReg x y => exact RoundTrip.addReg x y h
  | subReg x y => exact RoundTrip.subReg x y h
  | shr x y => exact RoundTrip.shr x y h
  | subn x y => exact RoundTrip.subn x y h
  | shl x y => exact RoundTrip.shl x y h
  | sneReg x y => exact RoundTrip.sneReg x y h
  | ldI nnn => exact RoundTrip.ldI nnn h
  | jpV0 nnn => exact RoundTrip.jpV0 nnn h
  | rnd x nn => exact RoundTrip.rnd x nn h
  | drw x y n => exact RoundTrip.drw x y n h
  | skp x => exact RoundTrip.skp x h
  | sknp x => exact RoundTrip.sknp x h
  | ldVxDt x => exact RoundTrip.ldVxDt x h
  | ldVxK x => exact RoundTrip.ldVxK x h
  | ldDtVx x => exact RoundTrip.ldDtVx x h
  | ldStVx x => exact RoundTrip.ldStVx x h
  | addI x => exact RoundTrip.addI x h
  | ldF x => exact RoundTrip.ldF x h
  | ldB x => exact RoundTrip.ldB x h
  | storeRegs x => exact RoundTrip.storeRegs x h
  | loadRegs x => exact RoundTrip.loadRegs x h

/-- Settles O3: the two bytes make the word again, and the word decodes. -/
theorem decodeInvertsEncode : Obligations.DecodeInvertsEncode := by
  intro i rest h
  simp only [encodeBytes, List.cons_append, List.nil_append, decode, wordOfBytes_high_low, decodeWord_encode h]

section
variable {op : Word} {i : Instr}

/-- Major 0x0: each word is written out whole. -/
theorem encode_of_decode0 (h : decode0 op = some i) : i.WellFormed ∧ encode i = op := by
  unfold decode0 at h
  split at h
  · next hop => cases h; exact ⟨rfl, hop.symm⟩
  · split at h
    · next hop => cases h; exact ⟨rfl, hop.symm⟩
    · cases h

/-- Major 0x8: x and y are in the instruction, and n is its function code. -/
theorem encode_of_decode8 (hm : major op = 8) (h : decode8 op = some i) : i.WellFormed ∧ encode i = op := by
  unfold decode8 at h
  split at h <;> cases h <;> exact ⟨rfl, wordXYN_of_fields hm ‹_›⟩

/-- Major 0xE: x is in the instruction, and nn is its function code. -/
theorem encode_of_decodeE (hm : major op = 14) (h : decodeE op = some i) : i.WellFormed ∧ encode i = op := by
  unfold decodeE at h
  split at h <;> cases h <;> exact ⟨rfl, wordXNN_of_fields hm ‹_›⟩

/-- Major 0xF: as 0xE. -/
theorem encode_of_decodeF (hm : major op = 15) (h : decodeF op = some i) : i.WellFormed ∧ encode i = op := by
  unfold decodeF at h
  split at h <;> cases h <;> exact ⟨rfl, wordXNN_of_fields hm ‹_›⟩

end

/-- Settles O4: by the major opcode; the fields the decoder reads are all the bits its match does not fix. -/
theorem encodeInvertsDecode : Obligations.EncodeInvertsDecode := by
  intro op i
  unfold decodeWord
  match hm : major op, major_lt op with
  | 0x0, _ => exact encode_of_decode0
  | 0x8, _ => exact encode_of_decode8 hm
  | 0xE, _ => exact encode_of_decodeE hm
  | 0xF, _ => exact encode_of_decodeF hm
  | 0x1, _ | 0x2, _ | 0xA, _ | 0xB, _ =>
    rintro ⟨⟩
    exact ⟨decide_eq_true (fieldNNN_lt op), wordNNN_of_fields hm⟩
  | 0x3, _ | 0x4, _ | 0x6, _ | 0x7, _ | 0xC, _ =>
    rintro ⟨⟩
    exact ⟨decide_eq_true (fieldNN_lt op), wordXNN_of_fields hm rfl⟩
  | 0x5, _ | 0x9, _ =>
    by_cases hn : fieldN op = 0
    · simp only [hn, if_true]
      rintro ⟨⟩
      exact ⟨rfl, wordXYN_of_fields hm hn⟩
    · simp [hn]
  | 0xD, _ =>
    rintro ⟨⟩
    exact ⟨decide_eq_true (fieldN_lt op), wordXYN_of_fields hm rfl⟩
  | k + 16, hlt => omega

/-- The decoder is the inverse of the encoder on well-formed instructions. -/
theorem decodeWord_eq_some_iff {op : Word} {i : Instr} : decodeWord op = some i ↔ i.WellFormed ∧ encode i = op := by
  constructor
  · exact encodeInvertsDecode op i
  · rintro ⟨hwf, rfl⟩
    exact decodeWord_encode hwf

/-! ### The rows of the opcode map (R95) -/

/-- Under a mask of the major opcode and the low `k` bits a word is `p` exactly when its major opcode and those bits
are. -/
theorem and_mask_eq_iff {k : Nat} (hk : k ≤ 12) {mask : Word} (hhigh : mask.toNat / 2 ^ 12 = 2 ^ 4 - 1)
    (hlow : mask.toNat % 2 ^ 12 = 2 ^ k - 1) (op p : Word) :
    op &&& mask = p ↔ major op = p.toNat / 4096 ∧ field 0 k op = p.toNat % 4096 := by
  have hmajor : (op.toNat &&& mask.toNat) / 2 ^ 12 = major op := by
    rw [Nat.and_div_two_pow, hhigh, Nat.and_two_pow_sub_one_eq_mod, major, field]
  have hfield : (op.toNat &&& mask.toNat) % 2 ^ 12 = field 0 k op := by
    rw [Nat.and_mod_two_pow, hlow, Nat.and_two_pow_sub_one_eq_mod, Nat.mod_mod_of_dvd _ (Nat.pow_dvd_pow 2 hk), field,
      Nat.pow_zero, Nat.div_one]
  rw [← BitVec.toNat_inj, BitVec.toNat_and, ← hmajor, ← hfield]
  omega

section
variable (op p : Word)

theorem and_F000_eq_iff : op &&& 0xF000#16 = p ↔ major op = p.toNat / 4096 ∧ 0 = p.toNat % 4096 :=
  (and_mask_eq_iff (k := 0) (by decide) rfl rfl op p).trans (by rw [field, Nat.pow_zero, Nat.mod_one])

theorem and_F00F_eq_iff : op &&& 0xF00F#16 = p ↔ major op = p.toNat / 4096 ∧ fieldN op = p.toNat % 4096 :=
  and_mask_eq_iff (k := 4) (by decide) rfl rfl op p

theorem and_F0FF_eq_iff : op &&& 0xF0FF#16 = p ↔ major op = p.toNat / 4096 ∧ fieldNN op = p.toNat % 4096 :=
  and_mask_eq_iff (k := 8) (by decide) rfl rfl op p

end

/-- The row of an instruction: the constructors stand in the order of the map. -/
def Instr.row (i : Instr) : OpcodeRow := opcodeMap[i.ctorIdx]'(by cases i <;> exact Nat.le_of_ble_eq_true rfl)

theorem Instr.row_mem (i : Instr) : i.row ∈ opcodeMap := List.getElem_mem _

theorem Instr.row_mnemonic (i : Instr) : i.row.mnemonic = i.mnemonic := by cases i <;> rfl

/-- The 34 names of the map are distinct, so a name has one row. -/
theorem opcodeMap_eq_of_mnemonic_eq {r q : OpcodeRow} (hr : r ∈ opcodeMap) (hq : q ∈ opcodeMap)
    (h : r.mnemonic = q.mnemonic) : r = q :=
  List.inj_on_of_nodup_map (by decide : (opcodeMap.map OpcodeRow.mnemonic).Nodup) hr hq h

theorem and_F000_of_major {op : Word} {m : Nat} (hm : m < 16) (h : major op = m) :
    op &&& 0xF000#16 = BitVec.ofNat 16 (m * 4096) := by
  rw [and_F000_eq_iff, h, BitVec.toNat_ofNat]
  omega

theorem wordNNN_and_mask {m nnn : Nat} (hm : m < 16) (h : nnn < 4096) :
    wordNNN m nnn &&& 0xF000#16 = BitVec.ofNat 16 (m * 4096) :=
  and_F000_of_major hm (RoundTrip.major_wordNNN hm h)

theorem wordXNN_and_mask {m nn : Nat} (x : Reg) (hm : m < 16) (h : nn < 256) :
    wordXNN m x nn &&& 0xF000#16 = BitVec.ofNat 16 (m * 4096) :=
  and_F000_of_major hm (RoundTrip.major_wordXNN x hm h)

theorem wordXYN_and_mask {m n : Nat} (x y : Reg) (hm : m < 16) (h : n < 16) :
    wordXYN m x y n &&& 0xF000#16 = BitVec.ofNat 16 (m * 4096) :=
  and_F000_of_major hm (RoundTrip.major_wordXYN x y hm h)

theorem wordXYF_and_mask {m n : Nat} (x y : Reg) (hm : m < 16) (h : n < 16) :
    wordXYN m x y n &&& 0xF00F#16 = BitVec.ofNat 16 (m * 4096 + n) := by
  rw [and_F00F_eq_iff, RoundTrip.major_wordXYN x y hm h, RoundTrip.fieldN_wordXYN x y h, BitVec.toNat_ofNat]
  omega

theorem wordXFF_and_mask {m nn : Nat} (x : Reg) (hm : m < 16) (h : nn < 256) :
    wordXNN m x nn &&& 0xF0FF#16 = BitVec.ofNat 16 (m * 4096 + nn) := by
  rw [and_F0FF_eq_iff, RoundTrip.major_wordXNN x hm h, RoundTrip.fieldNN_wordXNN x h, BitVec.toNat_ofNat]
  omega

/-- The word of a well-formed instruction matches its row: the format of R92 that it is written in says which bits stand
under the mask. -/
theorem Instr.encode_matches_row {i : Instr} (h : i.WellFormed) : encode i &&& i.row.mask = i.row.pattern := by
  cases i with
  | cls | ret => rfl
  | jp _ | call _ | ldI _ | jpV0 _ => exact wordNNN_and_mask (by decide) (of_decide_eq_true h)
  | seImm x _ | sneImm x _ | ldImm x _ | addImm x _ | rnd x _ =>
    exact wordXNN_and_mask x (by decide) (of_decide_eq_true h)
  | drw x y _ => exact wordXYN_and_mask x y (by decide) (of_decide_eq_true h)
  | seReg x y | ldReg x y | orReg x y | andReg x y | xorReg x y | addReg x y | subReg x y | shr x y | subn x y | shl x y
  | sneReg x y => exact wordXYF_and_mask x y (by decide) (by decide)
  | skp x | sknp x | ldVxDt x | ldVxK x | ldDtVx x | ldStVx x | addI x | ldF x | ldB x | storeRegs x | loadRegs x =>
    exact wordXFF_and_mask x (by decide) (by decide)

/-- A word that matches a row of the map decodes to an instruction of the row's name: the match fixes the major opcode
and, where the row has one, the function code, and these choose the decoder's arm. -/
theorem decodeWord_of_matches_row {op : Word} :
    ∀ r ∈ opcodeMap, op &&& r.mask = r.pattern → ∃ i, decodeWord op = some i ∧ i.mnemonic = r.mnemonic := by
  simp only [opcodeMap, List.cons_append, List.nil_append, List.forall_mem_cons, List.not_mem_nil,
    false_imp_iff, implies_true, and_true]
  refine ⟨?cls, ?ret, ?_⟩
  case cls | ret =>
    intro h
    cases (BitVec.and_allOnes (x := op)).symm.trans h
    exact ⟨_, rfl, rfl⟩
  simp only [BitVec.ofNat_eq_ofNat, and_F000_eq_iff, and_F00F_eq_iff, and_F0FF_eq_iff, BitVec.reduceToNat,
    Nat.reduceMod, Nat.reduceDiv]
  and_intros
  all_goals
    rintro ⟨hm, hf⟩
    simp only [decodeWord, decode8, decodeE, decodeF, hm, hf]
    exact ⟨_, rfl, rfl⟩

/-- Two rows whose patterns agree under both masks are one row: of the 34 rows of the map, pair by pair. -/
theorem opcodeMap_eq_of_compatible :
    ∀ r ∈ opcodeMap, ∀ q ∈ opcodeMap, r.pattern &&& q.mask = q.pattern &&& r.mask → r = q := by
  decide

/-- Settles O6: if one word matches two rows, their patterns agree under both masks, both being the word under both. -/
theorem opcodeRowsAreDisjoint : Obligations.OpcodeRowsAreDisjoint := by
  intro op r hr q hq hop hop'
  refine opcodeMap_eq_of_compatible r hr q hq ?_
  rw [← hop, ← hop', BitVec.and_assoc, BitVec.and_assoc, BitVec.and_comm r.mask]

/-- Settles O5: a matching word takes the decoder's arm of the row; and a word that decodes is the encoding of its
instruction, which matches that instruction's row, the only row of its name. -/
theorem decoderFollowsOpcodeMap : Obligations.DecoderFollowsOpcodeMap := by
  intro op r hr
  constructor
  · exact decodeWord_of_matches_row r hr
  · rintro ⟨i, hi, hname⟩
    obtain ⟨hwf, rfl⟩ := decodeWord_eq_some_iff.1 hi
    have hrow : i.row = r := opcodeMap_eq_of_mnemonic_eq i.row_mem hr (i.row_mnemonic.trans hname)
    exact hrow ▸ Instr.encode_matches_row hwf

/-! ### The unknown words (R97) -/

section
variable {op : Word}

/-- Major 0x0 leaves every word but CLS and RET unknown. -/
theorem decode0_eq_none_iff : decode0 op = none ↔ op ≠ 0x00E0#16 ∧ op ≠ 0x00EE#16 := by
  unfold decode0
  split_ifs <;> simp [*]

theorem decode8_eq_none_iff : decode8 op = none ↔ fieldN op ∈ [0x8, 0x9, 0xA, 0xB, 0xC, 0xD, 0xF] := by
  have hlt := fieldN_lt op
  unfold decode8
  generalize fieldN op = n at hlt ⊢
  interval_cases n <;> simp

theorem decodeE_eq_none_iff : decodeE op = none ↔ fieldNN op ∉ [0x9E, 0xA1] := by
  unfold decodeE
  split <;> simp_all

theorem decodeF_eq_none_iff :
    decodeF op = none ↔ fieldNN op ∉ [0x07, 0x0A, 0x15, 0x18, 0x1E, 0x29, 0x33, 0x55, 0x65] := by
  unfold decodeF
  split <;> simp_all

end

/-- Settles O7: by the major opcode; those without a function code leave no unknown word. -/
theorem unknownWordsAreTheListedOnes : Obligations.UnknownWordsAreTheListedOnes := by
  intro op
  unfold decodeWord
  match hm : major op, major_lt op with
  | 0x0, _ => simpa using decode0_eq_none_iff
  | 0x8, _ => simpa using decode8_eq_none_iff
  | 0xE, _ => simpa using decodeE_eq_none_iff
  | 0xF, _ => simpa using decodeF_eq_none_iff
  | 0x5, _ | 0x9, _ => simp
  | 0x1, _ | 0x2, _ | 0x3, _ | 0x4, _ | 0x6, _ | 0x7, _ | 0xA, _ | 0xB, _ | 0xC, _ | 0xD, _ => simp
  | k + 16, hlt => omega

/-- Settles O1: the decoder runs on each word. -/
theorem writtenWordsDecode : Obligations.WrittenWordsDecode := by
  unfold Obligations.WrittenWordsDecode
  decide

end Sys2Proof
end

section
/-! SUPPORT. Fetch, step and cycle: what the fetch leaves, where PC stands after a step, and the timer tick that ends a
cycle (40_fetch_step_cycle.md R120 to R128). -/

namespace Sys2Proof.Machine

/-! ### The fetched state (R120) -/

theorem State.fetched_pc_toNat (s : State) : s.fetched.pc.toNat = (s.pc.toNat + 2) % 4096 := BitVec.toNat_ofNat _ _

theorem State.wordAtPc_toNat (s : State) :
    s.wordAtPc.toNat = (s.readByte s.pc.toNat).toNat * 256 + (s.readByte (s.pc.toNat + 1)).toNat := by
  rw [s.wordAtPc_eq, wordOfBytes, BitVec.toNat_ofNat]
  omega

theorem sameBut_fetched (s : State) : SameBut (fun p => p = .pc ∨ p = .lastOp) s s.fetched := by
  intro p hp
  cases p with
  | pc | lastOp => simp at hp
  | _ => rfl

/-- Settles O8: the fetch gives the word at PC and the fetched state, except at PC = 0xFFF. -/
theorem fetchReadsBigEndianAndAdvances : Obligations.FetchReadsBigEndianAndAdvances :=
  ⟨fun s hpc => ⟨s.wordAtPc, s.fetched, fetch_ok hpc, s.wordAtPc_toNat, s.fetched_pc_toNat, rfl, sameBut_fetched s⟩,
    fun _ => fetch_error⟩

/-! ### What a step executes and reports (R121, R122) -/

/-- Two bytes decode to an instruction exactly when their big-endian word does (30_encoding.md R90). -/
theorem decode_pair_eq_ok_iff {hi lo : Byte} {i : Instr} :
    decode [hi, lo] = .ok (i, []) ↔ decodeWord (wordOfBytes hi lo) = some i := by
  unfold decode
  cases h : decodeWord (wordOfBytes hi lo) with
  | none => simp [h]
  | some j => simp [h]

/-- The fetched state in the spec's own terms: PC plus 2 in 12 bits, and the big-endian word of the bytes at PC. -/
theorem State.fetched_eq (s : State) : s.fetched =
    { s with
      pc := s.pc + 2#12
      lastOp := wordOfBytes (s.readByte s.pc.toNat) (s.readByte (s.pc.toNat + 1)) } := by
  have hpc : BitVec.ofNat 12 (s.pc.toNat + 2) = s.pc + 2#12 := by
    rw [BitVec.ofNat_add, BitVec.ofNat_toNat, BitVec.setWidth_eq]
  rw [State.fetched, hpc, s.wordAtPc_eq]

/-- Settles O9: the word of the two bytes decodes, so the step executes on the fetched state. -/
theorem stepRunsDecodedInstruction : Obligations.StepRunsDecodedInstruction := by
  intro s i hw hpc hdec
  have hword : decodeWord s.wordAtPc = some i := decode_pair_eq_ok_iff.1 hdec
  rw [step_exec hw hpc hword, s.fetched_eq]

/-- Settles O10. -/
theorem stepDoesNothingWhileWaiting : Obligations.StepDoesNothingWhileWaiting :=
  fun _ hw => ⟨step_waiting hw, stepReport_waiting hw⟩

/-- A step that cannot fetch reports the fault it ends in (60_exceptions.md R266). -/
theorem stepReport_at_top {s : State} (hw : s.waiting = false) (hpc : s.pc = 0xFFF#12) :
    stepReport s = some (.addressOutOfRange 0x1000) := by
  simp [stepReport, hw, fetch_error hpc, faultDiagnostic]

/-- Settles O11. -/
theorem stepFaultsAtTopOfRam : Obligations.StepFaultsAtTopOfRam :=
  fun _ hw hpc => ⟨step_at_top hw hpc, stepReport_at_top hw hpc⟩

/-! ### Where PC stands after a step (R128) -/

/-- An instruction that does not redirect PC leaves it where the fetch put it. -/
theorem instrEffect_pc {i : Instr} {s : State} (h : redirects i s = false) : (instrEffect i s).pc = s.pc := by
  cases i with
  | jp _ | jpV0 _ => cases h
  | ret | call _ => exact congrArg State.pc (if_pos (not_not.1 (of_decide_eq_false h)))
  | seImm _ _ | sneImm _ _ | seReg _ _ | sneReg _ _ | skp _ | sknp _ =>
    exact (s.skipIf_pc _).trans (if_neg (Bool.eq_false_iff.1 h))
  | addI _ => simp only [instrEffect]; split <;> rfl
  | loadRegs _ => exact s.loadFrom_pc _ _ _
  | _ => rfl

/-- The fetch writes nothing that redirecting depends on. -/
theorem redirects_fetched (i : Instr) (s : State) : redirects i s.fetched = redirects i s := by cases i <;> rfl

theorem exec_fetched_pc {i : Instr} {s t : State} (hred : redirects i s = false) (h : exec i s.fetched = .next t) :
    t.pc = s.fetched.pc := by
  obtain ⟨rfl, -⟩ := exec_inv h
  exact instrEffect_pc ((redirects_fetched i s).trans hred)

/-- Settles O13: a step that executes a word answers the fetched state or an instruction's effect on it. -/
theorem pcAdvancesByTwoUnlessRedirected : Obligations.PcAdvancesByTwoUnlessRedirected := by
  intro s t hw h hred
  rw [← s.fetched_pc_toNat]
  rcases step_cases s with ⟨hwait, -⟩ | ⟨-, -, hs⟩ | ⟨-, -, -, hs⟩ | ⟨i, -, -, hdec, hs⟩
  · simp [hw] at hwait
  · cases hs.symm.trans h
  · cases hs.symm.trans h
    rfl
  · exact congrArg BitVec.toNat (exec_fetched_pc (hred i hdec) (hs.symm.trans h))

/-! ### Cycles (R123, R124) -/

theorem sameBut_timerTick (s : State) : SameBut (fun p => p = .dt ∨ p = .st) s (timerTick s) := by
  intro p hp
  cases p with
  | dt | st => simp at hp
  | _ => rfl

theorem timerTick_dt_toNat (s : State) : (timerTick s).dt.toNat = s.dt.toNat - 1 := countDown_toNat s.dt

theorem timerTick_st_toNat (s : State) : (timerTick s).st.toNat = s.st.toNat - 1 := countDown_toNat s.st

theorem hostCycle_paused {s : State} (hp : s.paused = true) : hostCycle s = .next s := if_pos hp

theorem hostCycle_next {s u : State} (hp : s.paused = false) (h : batch s.speed s = .next u) :
    hostCycle s = .next (timerTick u) := by
  simp [hostCycle, hp, h]

theorem cycleReport_paused {s : State} (hp : s.paused = true) : transactReport .cycle s = [] := if_pos hp

theorem cycleReport_not_paused {s : State} (hp : s.paused = false) :
    transactReport .cycle s = batchReport s.speed s := if_neg (Bool.eq_false_iff.1 hp)

/-- Settles O43: the batch of a cycle is the host interface's run. -/
theorem cycleRunsSpeedStepsThenTicks : Obligations.CycleRunsSpeedStepsThenTicks := by
  refine ⟨fun s hp => ⟨hostCycle_paused hp, cycleReport_paused hp⟩, fun s u hp hrun => ?_⟩
  have hbatch : batch s.speed s = .next u := (batch_eq_run s.speed s).trans hrun
  exact ⟨timerTick u, hostCycle_next hp hbatch, timerTick_dt_toNat u, timerTick_st_toNat u, sameBut_timerTick u,
    cycleReport_not_paused hp⟩

/-- A cycle that waits is one timer tick: its steps stand still (R31). -/
theorem hostCycle_waiting {s : State} (hw : s.waiting = true) (hp : s.paused = false) :
    hostCycle s = .next (timerTick s) := hostCycle_next hp (batch_waiting s.speed hw)

theorem transactAll_cons {x : Transaction} {xs : List Transaction} {s u : State} (h : transact x s = .next u) :
    transactAll (x :: xs) s = transactAll xs u := by
  simp [transactAll, h]

/-- Settles O44: by induction on the number of cycles; each is one tick, which keeps `waiting` and `paused`. -/
theorem waitingCyclesOnlyTick : Obligations.WaitingCyclesOnlyTick := by
  intro k
  induction k with
  | zero => exact fun s _ _ => ⟨s, rfl, rfl, rfl, SameBut.refl _ s⟩
  | succ k ih =>
    intro s hw hp
    obtain ⟨t, hrun, hdt, hst, hframe⟩ := ih (timerTick s) hw hp
    refine ⟨t, ?run, ?dt, ?st, (sameBut_timerTick s).trans hframe⟩
    case run => exact (transactAll_cons (x := .cycle) (hostCycle_waiting hw hp)).trans hrun
    case dt => rw [hdt, timerTick_dt_toNat, Nat.sub_sub, Nat.add_comm]
    case st => rw [hst, timerTick_st_toNat, Nat.sub_sub, Nat.add_comm]

end Sys2Proof.Machine
end

section
/-! SUPPORT. Control flow: where jumps and skips leave PC, what a call pushes and a return pops, and that a return after
a call comes back (41_control_flow.md R140 to R148). -/

namespace Sys2Proof.Machine

/-! ### PC after a jump or a skip (R141, R147, R148) -/

theorem State.setPc_pc_toNat (s : State) (n : Nat) : (s.setPc n).pc.toNat = n % 4096 := BitVec.toNat_ofNat n 12

theorem State.setPc_pc_toNat_of_lt (s : State) {n : Nat} (h : n < 4096) : (s.setPc n).pc.toNat = n :=
  (s.setPc_pc_toNat n).trans (Nat.mod_eq_of_lt h)

theorem State.skipIf_pc_toNat (s : State) (c : Bool) :
    (s.skipIf c).pc.toNat = if c then (s.pc.toNat + 2) % 4096 else s.pc.toNat := by
  cases c with
  | false => rfl
  | true => exact s.setPc_pc_toNat _

/-- Settles O15: both jumps are one `setPc`, which reduces its target modulo 4096. -/
theorem jumpsSetPc : Obligations.JumpsSetPc :=
  ⟨fun nnn s hn => ⟨s.setPc nnn, rfl, s.setPc_pc_toNat_of_lt hn, sameBut_setPc s nnn⟩,
    fun _ s _ => ⟨s.setPc _, rfl, s.setPc_pc_toNat _, sameBut_setPc s _⟩⟩

/-- What each skip instruction does, given that it is a `skipIf` on a bit that says whether `P` holds. -/
theorem exec_skip {i : Instr} {s : State} {c : Bool} {P : Prop} [Decidable P] (h : exec i s = .next (s.skipIf c))
    (hc : c = true ↔ P) :
    ∃ t, exec i s = .next t ∧ t.pc.toNat = (if P then (s.pc.toNat + 2) % 4096 else s.pc.toNat) ∧
      SameBut (fun p => p = .pc) s t :=
  ⟨s.skipIf c, h, (s.skipIf_pc_toNat c).trans (if_congr hc rfl rfl), sameBut_skipIf s c⟩

/-- Settles O19: each of the four is one `skipIf`, on an equality or its complement. -/
theorem skipsCompareRegisters : Obligations.SkipsCompareRegisters :=
  ⟨fun _ _ _ _ => exec_skip rfl beq_iff_eq, fun _ _ _ _ => exec_skip rfl bne_iff_ne,
    fun _ _ _ => exec_skip rfl beq_iff_eq, fun _ _ _ => exec_skip rfl bne_iff_ne⟩

/-! ### The return stack (10_state.md R24, R25) -/

theorem State.push_sp_val {s : State} (h : s.sp.val < 16) (a : Addr) : (s.push a).sp.val = s.sp.val + 1 :=
  Fin.val_add_one_of_lt (Fin.lt_def.2 h)

/-- A push stores at the entry that SP named. -/
theorem State.push_stack_sp (s : State) (a : Addr) {k : Fin 16} (hk : k.val = s.sp.val) : (s.push a).stack[k] = a := by
  simp [hk]

/-- The entry that a return reads. -/
theorem State.stackTop_eq (s : State) {k : Fin 16} (hk : k.val = s.sp.val - 1) : s.stackTop = s.stack[k] := by
  simp [State.stackTop, hk]

theorem State.stackTop_push {s : State} (h : s.sp.val < 16) (a : Addr) : (s.push a).stackTop = a := by
  have hk : (⟨s.sp.val, h⟩ : Fin 16).val = (s.push a).sp.val - 1 := by rw [State.push_sp_val h]; rfl
  exact ((s.push a).stackTop_eq hk).trans (s.push_stack_sp a rfl)

/-- The top of the stack depends on the stack and SP alone. -/
theorem State.stackTop_congr {t u : State} (hsp : u.sp = t.sp) (hstack : u.stack = t.stack) :
    u.stackTop = t.stackTop := by
  simp [State.stackTop, hsp, hstack]

/-- Where a return leaves PC. -/
theorem State.setPc_stackTop_pc (s t : State) : (t.setPc s.stackTop.toNat).pc = s.stackTop := by simp

/-! ### Calls and returns (R140, R142) -/

theorem execReport_of_next {i : Instr} {s t : State} (h : exec i s = .next t) :
    execReport i s = instrDiagnostic i s := by
  simp [execReport, h]

section
variable {s : State}

/-- A call with room on the stack pushes PC and jumps. -/
theorem exec_call (nnn : Nat) (h : s.sp.val < 16) : exec (.call nnn) s = .next ((s.push s.pc).setPc nnn) := by
  simp [exec, execCall, callDiagnostic_eq, Nat.ne_of_lt h]

theorem exec_call_full (nnn : Nat) (h : s.sp.val = 16) : exec (.call nnn) s = .next s := by
  simp [exec, execCall, callDiagnostic_eq, h]

/-- A return from a stack that is not empty jumps to its top and pops it. -/
theorem exec_ret (h : 0 < s.sp.val) : exec .ret s = .next (s.pop.setPc s.stackTop.toNat) := by
  simp [exec, execRet, retDiagnostic_eq, Nat.ne_of_gt h]

theorem exec_ret_empty (h : s.sp.val = 0) : exec .ret s = .next s := by
  simp [exec, execRet, retDiagnostic_eq, h]

theorem execReport_call (nnn : Nat) (h : s.sp.val < 16) : execReport (.call nnn) s = none :=
  (execReport_of_next (exec_call nnn h)).trans ((callDiagnostic_eq s).trans (if_neg (Nat.ne_of_lt h)))

theorem execReport_call_full (nnn : Nat) (h : s.sp.val = 16) : execReport (.call nnn) s = some .stackOverflow :=
  (execReport_of_next (exec_call_full nnn h)).trans ((callDiagnostic_eq s).trans (if_pos h))

theorem execReport_ret (h : 0 < s.sp.val) : execReport .ret s = none :=
  (execReport_of_next (exec_ret h)).trans ((retDiagnostic_eq s).trans (if_neg (Nat.ne_of_gt h)))

theorem execReport_ret_empty (h : s.sp.val = 0) : execReport .ret s = some .stackUnderflow :=
  (execReport_of_next (exec_ret_empty h)).trans ((retDiagnostic_eq s).trans (if_pos h))

end

/-- Settles O16: with room the call is a push and a `setPc`; on a full stack it only reports. -/
theorem callPushesAndJumps : Obligations.CallPushesAndJumps := by
  refine ⟨fun nnn s hn hsp => ?room, fun nnn s hsp => ⟨exec_call_full nnn hsp, execReport_call_full nnn hsp⟩⟩
  have hexec := exec_call nnn hsp
  exact ⟨_, hexec, State.setPc_pc_toNat_of_lt _ hn, State.push_sp_val hsp s.pc, fun _ => s.push_stack_sp _,
    exec_sameBut hexec, execReport_call nnn hsp⟩

/-- Settles O17: with an entry the return is a pop and a `setPc` to the top; on an empty stack it only reports. -/
theorem retPopsIntoPc : Obligations.RetPopsIntoPc := by
  refine ⟨fun s hsp => ?entry, fun s hsp => ⟨exec_ret_empty hsp, execReport_ret_empty hsp⟩⟩
  have hexec := exec_ret hsp
  exact ⟨_, hexec, rfl, fun _ hk => (State.setPc_stackTop_pc s _).trans (s.stackTop_eq hk), exec_sameBut hexec,
    execReport_ret hsp⟩

/-- Settles O18: the return pops the entry that the call pushed, because the state between kept the stack and SP. -/
theorem callThenRetReturns : Obligations.CallThenRetReturns := by
  intro nnn s t u hsp hcall husp hustack
  obtain rfl : (s.push s.pc).setPc nnn = t := Host.Outcome.next.inj ((exec_call nnn hsp).symm.trans hcall)
  have hsp_u : u.sp.val = s.sp.val + 1 := (congrArg Fin.val husp).trans (State.push_sp_val hsp s.pc)
  have htop : u.stackTop = s.pc :=
    calc u.stackTop
      _ = (s.push s.pc).stackTop := State.stackTop_congr husp hustack
      _ = s.pc := State.stackTop_push hsp _
  have hexec := exec_ret (s := u) (by omega)
  have hsp_back : u.sp.val - 1 = s.sp.val := Nat.sub_eq_of_eq_add hsp_u
  exact ⟨_, hexec, (State.setPc_stackTop_pc u _).trans htop, Fin.ext hsp_back, exec_sameBut hexec⟩

end Sys2Proof.Machine
end

section
/-! SUPPORT. The ALU: the value a register write leaves, a result written before its flag, and each result and flag as
arithmetic on the operands (42_alu.md R160 to R173). -/

namespace Sys2Proof.Machine

/-! ### Instructions that write one register (R161 to R166, R172) -/

theorem State.readV_writeV_same (s : State) (x : Reg) (b : Byte) : (s.writeV x b).readV x = b :=
  (s.readV_writeV x x b).trans (if_pos rfl)

theorem imm8_toNat {nn : Nat} (h : nn < 256) : (imm8 nn).toNat = nn :=
  (BitVec.toNat_ofNat nn 8).trans (Nat.mod_eq_of_lt h)

theorem toNat_add_imm8 (a : Byte) (nn : Nat) : (a + imm8 nn).toNat = (a.toNat + nn) % 256 := by
  simp [imm8, BitVec.toNat_add]

/-- A masked byte has no bit outside its mask. -/
theorem and_and_not_self (a m : Byte) : a &&& m &&& ~~~m = 0 := by
  rw [BitVec.and_assoc, BitVec.and_not_self]
  exact BitVec.and_zero

/-- Settles O20: both loads are one register write. -/
theorem loadsWriteOnlyVx : Obligations.LoadsWriteOnlyVx :=
  ⟨fun x nn s hnn => ⟨s.writeV x (imm8 nn), rfl,
      (congrArg BitVec.toNat (s.readV_writeV_same x _)).trans (imm8_toNat hnn), sameBut_writeV s x _⟩,
    fun x y s => ⟨s.writeV x (s.readV y), rfl, s.readV_writeV_same x _, sameBut_writeV s x _⟩⟩

/-- Settles O21: the sum of bytes wraps, and it is all that is written. -/
theorem addImmediateWrapsWithoutFlag : Obligations.AddImmediateWrapsWithoutFlag :=
  fun x nn s _ => ⟨s.writeV x (s.readV x + imm8 nn), rfl,
    (congrArg BitVec.toNat (s.readV_writeV_same x _)).trans (toNat_add_imm8 _ nn), sameBut_writeV s x _⟩

/-- Settles O22: each writes the bitwise combination, and nothing else. -/
theorem logicIsBitwiseWithoutFlag : Obligations.LogicIsBitwiseWithoutFlag := by
  intro x y s
  refine ⟨⟨_, rfl, sameBut_writeV s x _, fun k => ?or⟩, ⟨_, rfl, sameBut_writeV s x _, fun k => ?and⟩,
    ⟨_, rfl, sameBut_writeV s x _, fun k => ?xor⟩⟩
  case or => rw [s.readV_writeV_same, BitVec.getLsbD_or]
  case and => rw [s.readV_writeV_same, BitVec.getLsbD_and]
  case xor => rw [s.readV_writeV_same, BitVec.getLsbD_xor]

/-- Settles O26: the drawn byte is masked, and a masked byte has no bit outside its mask. -/
theorem randomByteIsMasked : Obligations.RandomByteIsMasked := by
  intro x nn s _
  have hexec : exec (.rnd x nn) s = .next (s.writeV x (s.randomByte &&& imm8 nn)).countDraw := rfl
  have hread : (s.writeV x (s.randomByte &&& imm8 nn)).countDraw.readV x = s.randomByte &&& imm8 nn :=
    s.readV_writeV_same x _
  refine ⟨_, hexec, hread, ?masked, rfl, exec_sameBut hexec⟩
  rw [hread]
  exact and_and_not_self _ _

/-! ### Results and flags as arithmetic (R167 to R171) -/

section
variable (a b : Byte)

theorem flagByte_carry_toNat : (flagByte (carry a b)).toNat = if 255 < a.toNat + b.toNat then 1 else 0 :=
  (flagByte_toNat _).trans (if_congr (carry_iff a b) rfl rfl)

theorem flagByte_strictlyGreater_toNat :
    (flagByte (strictlyGreater a b)).toNat = if b.toNat < a.toNat then 1 else 0 :=
  (flagByte_toNat _).trans (if_congr (strictlyGreater_iff a b) rfl rfl)

theorem flagByte_bit0_toNat : (flagByte (bit0 a)).toNat = a.toNat % 2 := by
  rw [flagByte_toNat, if_congr (bit0_iff a) rfl rfl]
  split <;> omega

theorem flagByte_bit7_toNat : (flagByte (bit7 a)).toNat = a.toNat / 128 := by
  have hlt := a.isLt
  rw [flagByte_toNat, if_congr (bit7_iff a) rfl rfl]
  split <;> omega

theorem toNat_sub_byte : (a - b).toNat = (256 + a.toNat - b.toNat) % 256 := by
  have hb := b.isLt
  rw [BitVec.toNat_sub]
  omega

theorem toNat_shiftRight_one : (a >>> 1).toNat = a.toNat / 2 := 
  (BitVec.toNat_ushiftRight a 1).trans (Nat.shiftRight_eq_div_pow _ 1)

theorem toNat_shiftLeft_one : (a <<< 1).toNat = 2 * a.toNat % 256 := by
  rw [BitVec.toNat_shiftLeft, Nat.shiftLeft_eq, Nat.mul_comm]

end

/-! ### A result and then its flag (R125, R160) -/

section
variable (s : State) (res flag : Byte)

theorem State.readV_flag_writeResultThenFlag (x : Reg) : (s.writeResultThenFlag x res flag).readV 15 = flag :=
  (s.readV_writeResultThenFlag x 15 res flag).trans (if_pos rfl)

theorem State.readV_result_writeResultThenFlag {x : Reg} (hx : x ≠ 15) :
    (s.writeResultThenFlag x res flag).readV x = res :=
  (s.readV_writeResultThenFlag x x res flag).trans ((if_neg hx).trans (if_pos rfl))

end

/-- What an instruction that writes its result and then its flag leaves: the flag in VF for every x, because it is
written last (log 11), and the result in Vx unless the flag replaced it. -/
theorem exec_result_then_flag {i : Instr} {s : State} {x : Reg} {res flag : Byte} {m n : Nat}
    (h : exec i s = .next (s.writeResultThenFlag x res flag)) (hflag : flag.toNat = n) (hres : res.toNat = m) :
    ∃ t, exec i s = .next t ∧ (t.readV 15).toNat = n ∧ (x ≠ 15 → (t.readV x).toNat = m) ∧
      SameBut (fun p => p = .v x ∨ p = .v 15) s t := by
  refine ⟨_, h, ?flag, fun hx => ?result, sameBut_writeResultThenFlag s x res flag⟩
  case flag => rw [s.readV_flag_writeResultThenFlag res flag, hflag]
  case result => rw [s.readV_result_writeResultThenFlag res flag hx, hres]

/-- A carry and a wrapped sum make up the exact sum. -/
theorem sum_eq_carry_add_wrapped (a b : Byte) :
    a.toNat + b.toNat = 256 * (if 255 < a.toNat + b.toNat then 1 else 0) + (a.toNat + b.toNat) % 256 := by
  have ha := a.isLt
  have hb := b.isLt
  split <;> omega

/-- Settles O23: the flag is the carry and the result the wrapped sum, which together are the exact sum. -/
theorem addLeavesSumAndCarry : Obligations.AddLeavesSumAndCarry := by
  intro x y s
  obtain ⟨t, hexec, hflag, hres, hframe⟩ := exec_result_then_flag (i := .addReg x y) (s := s) rfl
    (flagByte_carry_toNat (s.readV x) (s.readV y)) (BitVec.toNat_add (s.readV x) (s.readV y))
  refine ⟨t, hexec, hflag, fun hx => ⟨hres hx, ?exact_sum⟩, hframe⟩
  rw [hflag, hres hx]
  exact sum_eq_carry_add_wrapped _ _

/-- Settles O24: one subtraction with its flag, in both orders of the operands. -/
theorem subtractsLeaveDifferenceAndStrictFlag : Obligations.SubtractsLeaveDifferenceAndStrictFlag :=
  fun _ _ _ => ⟨exec_result_then_flag rfl (flagByte_strictlyGreater_toNat _ _) (toNat_sub_byte _ _),
    exec_result_then_flag rfl (flagByte_strictlyGreater_toNat _ _) (toNat_sub_byte _ _)⟩

/-- Settles O25: a shift by one halves or doubles Vx, and the flag is the bit that the shift drops. -/
theorem shiftsLeaveBitShiftedOut : Obligations.ShiftsLeaveBitShiftedOut :=
  fun _ _ _ => ⟨exec_result_then_flag rfl (flagByte_bit0_toNat _) (toNat_shiftRight_one _),
    exec_result_then_flag rfl (flagByte_bit7_toNat _) (toNat_shiftLeft_one _)⟩

end Sys2Proof.Machine
end

section
/-! SUPPORT. The index register and memory: where ANNN, FX1E and FX29 leave I, the checked access of FX33, FX55 and FX65,
and what these three store and load (43_index_memory.md R190 to R195; log 1, log 15). -/

namespace Sys2Proof.Machine

/-! ### Writes of I (R190, R191, R192) -/

theorem State.setI_i_toNat (s : State) (n : Nat) : (s.setI n).i.toNat = n % 4096 := BitVec.toNat_ofNat n 12

theorem State.setI_i_toNat_of_lt (s : State) {n : Nat} (h : n < 4096) : (s.setI n).i.toNat = n :=
  (s.setI_i_toNat n).trans (Nat.mod_eq_of_lt h)

theorem glyphAddress_lowNibble (b : Byte) : glyphAddress (lowNibble b) = b.toNat % 16 * 5 := rfl

theorem glyphAddress_lt (d : Fin 16) : glyphAddress d < 4096 := by
  have hd := d.isLt
  simp only [glyphAddress]
  omega

/-- Settles O27: both write I once, with a value that fits its 12 bits. -/
theorem indexLoadsSetI : Obligations.IndexLoadsSetI :=
  ⟨fun nnn s hnnn => ⟨s.setI nnn, rfl, s.setI_i_toNat_of_lt hnnn, sameBut_setI s nnn⟩,
    fun x s => ⟨s.setI (glyphAddress (lowNibble (s.readV x))), rfl,
      (s.setI_i_toNat_of_lt (glyphAddress_lt _)).trans (glyphAddress_lowNibble (s.readV x)), sameBut_setI s _⟩⟩

section
variable {x : Reg} {s : State}

theorem exec_addI_overflow (h : 0xFFF < s.i.toNat + (s.readV x).toNat) :
    exec (.addI x) s = .next ((s.setI (s.i.toNat + (s.readV x).toNat)).writeV flagReg (flagByte true)) :=
  if_pos ((indexOverflow_iff _).2 h)

theorem exec_addI_within (h : s.i.toNat + (s.readV x).toNat ≤ 0xFFF) :
    exec (.addI x) s = .next (s.setI (s.i.toNat + (s.readV x).toNat)) :=
  if_neg fun hov => absurd ((indexOverflow_iff _).1 hov) (Nat.not_lt.2 h)

end

/-- Settles O28: by cases on the overflow; I takes the wrapped sum in both, and only the overflow writes VF. -/
theorem addToIndexFlagsOnlyOverflow : Obligations.AddToIndexFlagsOnlyOverflow := by
  intro x s
  have hframe : ∀ {t}, exec (.addI x) s = .next t → SameBut (fun p => p = .i ∨ p = .v 15) s t :=
    fun h => (exec_sameBut h).mono fun _ => Or.imp_right And.left
  by_cases hov : 0xFFF < s.i.toNat + (s.readV x).toNat
  · have hexec := exec_addI_overflow hov
    exact ⟨_, hexec, s.setI_i_toNat _, fun _ => State.readV_writeV_same _ flagReg _,
      fun hle => absurd hov (Nat.not_lt.2 hle), hframe hexec⟩
  · have hexec := exec_addI_within (Nat.not_lt.1 hov)
    exact ⟨_, hexec, s.setI_i_toNat _, fun h => absurd h hov, fun _ => s.readV_setI _ 15, hframe hexec⟩

/-! ### An access of `n + 1` bytes from I on, the highest of them at I + n (20_memory.md R68; log 1) -/

section
variable {i : Instr} {s : State} {n : Nat} (haccess : instrAccess i = n + 1)
include haccess

theorem exec_next_of_access_within (h : s.i.toNat + n ≤ 0xFFF) : ∃ t, exec i s = .next t := by
  rw [exec_eq_accessing, haccess]
  exact ⟨_, accessing_next (.inr (Nat.succ_le_succ h))⟩

theorem exec_fault_of_access_past (h : 0xFFF < s.i.toNat + n) :
    exec i s = .fault (.addressOutOfRange (s.i.toNat + n)) := by
  rw [exec_eq_accessing, haccess]
  exact accessing_fault n.succ_pos (Nat.succ_lt_succ h)

theorem access_within_of_exec_next {t : State} (h : exec i s = .next t) : s.i.toNat + n ≤ 0xFFF := by
  by_contra! hpast
  cases h.symm.trans (exec_fault_of_access_past haccess hpast)

end

/-! ### Decimal digits (R193) -/

/-- FX33 leaves digit k at I + k. -/
theorem readByte_of_exec_ldB {x : Reg} {s t : State} (h : exec (.ldB x) s = .next t) {k : Nat} (hk : k < 3) :
    t.readByte (s.i.toNat + k) = (bcdDigits (s.readV x)).getD k 0 := by
  obtain ⟨rfl, -⟩ := exec_inv h
  have hin : s.base ≤ s.i.toNat + k ∧ s.i.toNat + k < s.base + (bcdDigits (s.readV x)).length :=
    ⟨Nat.le_add_right .., Nat.add_lt_add_left hk _⟩
  refine (s.readByte_storeBytes s.base _ (bcdDigits (s.readV x))).trans ?_
  rw [if_pos hin, State.base, Nat.add_sub_cancel_left]

section
variable (b : Byte)

theorem bcdDigits_hundreds : ((bcdDigits b).getD 0 0).toNat = b.toNat / 100 :=
  (BitVec.toNat_ofNat _ 8).trans (Nat.mod_eq_of_lt (by omega))

theorem bcdDigits_tens : ((bcdDigits b).getD 1 0).toNat = b.toNat / 10 % 10 :=
  (BitVec.toNat_ofNat _ 8).trans (Nat.mod_eq_of_lt (by omega))

theorem bcdDigits_ones : ((bcdDigits b).getD 2 0).toNat = b.toNat % 10 :=
  (BitVec.toNat_ofNat _ 8).trans (Nat.mod_eq_of_lt (by omega))

end

/-- Settles O29: the three bytes stored at I are the decimal digits, which make up Vx again. -/
theorem bcdStoresDecimalDigits : Obligations.BcdStoresDecimalDigits := by
  refine ⟨fun x s h => ?digits, fun x s h => exec_fault_of_access_past rfl h⟩
  obtain ⟨t, hexec⟩ := exec_next_of_access_within (i := .ldB x) rfl h
  have h0 : (t.readByte s.i.toNat).toNat = (s.readV x).toNat / 100 :=
    (congrArg BitVec.toNat (readByte_of_exec_ldB hexec (by decide : 0 < 3))).trans (bcdDigits_hundreds _)
  have h1 : (t.readByte (s.i.toNat + 1)).toNat = (s.readV x).toNat / 10 % 10 :=
    (congrArg BitVec.toNat (readByte_of_exec_ldB hexec (by decide))).trans (bcdDigits_tens _)
  have h2 : (t.readByte (s.i.toNat + 2)).toNat = (s.readV x).toNat % 10 :=
    (congrArg BitVec.toNat (readByte_of_exec_ldB hexec (by decide))).trans (bcdDigits_ones _)
  refine ⟨t, hexec, h0, h1, h2, ?sum, exec_sameBut hexec⟩
  rw [h0, h1, h2]
  omega

/-! ### Runs of registers (R194, R195) -/

/-- Settles O30: FX55 leaves V[r] at I + r, and it may write nothing else. -/
theorem storeRegistersWritesRange : Obligations.StoreRegistersWritesRange := by
  refine ⟨fun x s h => ?stored, fun x s h => exec_fault_of_access_past rfl h⟩
  obtain ⟨t, hexec⟩ := exec_next_of_access_within (i := .storeRegs x) rfl h
  exact ⟨t, hexec, fun _ => readByte_of_exec_storeRegs hexec, exec_sameBut hexec⟩

/-- FX65 leaves in V[r] the byte at I + r (R195). -/
theorem readV_of_exec_loadRegs {x : Reg} {s t : State} (h : exec (.loadRegs x) s = .next t) {r : Reg} (hr : r ≤ x) :
    t.readV r = s.readByte (s.i.toNat + r.val) := by
  obtain ⟨rfl, -⟩ := exec_inv h
  have hle : r.val ≤ x.val := hr
  exact (s.readV_loadFrom s.base 0 (x.val + 1) (by omega) r).trans (if_pos ⟨Nat.zero_le _, by omega⟩)

/-- Settles O31: FX65 leaves in V[r] the byte at I + r, and it may write nothing else. -/
theorem loadRegistersReadsRange : Obligations.LoadRegistersReadsRange := by
  refine ⟨fun x s h => ?loaded, fun x s h => exec_fault_of_access_past rfl h⟩
  obtain ⟨t, hexec⟩ := exec_next_of_access_within (i := .loadRegs x) rfl h
  exact ⟨t, hexec, fun _ => readV_of_exec_loadRegs hexec, exec_sameBut hexec⟩

/-- Settles O32: the store passed its check, so the load over the same bytes passes too, and V[r] is the byte at I + r
that V[r] was stored to. -/
theorem storeThenLoadRestoresRegisters : Obligations.StoreThenLoadRestoresRegisters := by
  intro x s t u hstore hi hbytes
  have hwithin : u.i.toNat + x.val ≤ 0xFFF := by
    rw [hi]
    exact access_within_of_exec_next rfl hstore
  obtain ⟨w, hload⟩ := exec_next_of_access_within (i := .loadRegs x) rfl hwithin
  refine ⟨w, hload, fun r hr => ?_⟩
  rw [readV_of_exec_loadRegs hload hr, hi, hbytes r hr, readByte_of_exec_storeRegs hstore hr]

end Sys2Proof.Machine
end

section
/-! SUPPORT. The display: which pixels a sprite's set bits land on, what DXYN leaves on the screen and in VF, and that a
second draw at the same place undoes the first (44_display.md R210, R211; log 1, log 29). -/

namespace Sys2Proof.Machine

/-- Settles O34: the blank screen is presented, whatever was shown before. -/
theorem clearScreenBlanksAllPixels : Obligations.ClearScreenBlanksAllPixels :=
  fun s => ⟨s.present Screen.blank, rfl, Screen.pixel_blank, rfl, sameBut_present s _⟩

/-! ### The sprite's bits on the screen (R211) -/

/-- The mask of column `col` picks bit 7 - `col` of the sprite byte. -/
theorem spriteBit_eq_getLsbD (byte : Byte) {col : Nat} (hcol : col < 8) :
    spriteBit byte col = byte.getLsbD (7 - col) := by
  have hmask : ∀ k < 8, 0x80#8 >>> k = BitVec.twoPow 8 (7 - k) ∧ BitVec.twoPow 8 (7 - k) ≠ 0 := by decide
  obtain ⟨hshift, hne⟩ := hmask col hcol
  rw [spriteBit, hshift, BitVec.and_twoPow]
  cases byte.getLsbD (7 - col) with
  | false => rfl
  | true => exact bne_iff_ne.2 hne

section
variable {s : State} {x y : Reg} {n : Nat} {r : Fin 32} {c : Fin 64}

/-- The drawn rows cover the pixels on which a set sprite bit lands. -/
theorem rowsCover_iff_lands :
    RowsCover (fun row => s.readByte (s.base + row)) (s.readV x).toNat (s.readV y).toNat n r c ↔
      ∃ row col, Lands s x y n row col r c := by
  constructor
  · rintro ⟨row, hrow, hr, col, hcol, hbit, hc⟩
    exact ⟨row, col, hrow, hcol, spriteBit_eq_getLsbD _ hcol ▸ hbit, congrArg Fin.val hr, congrArg Fin.val hc⟩
  · rintro ⟨row, col, hrow, hcol, hbit, hr, hc⟩
    exact ⟨row, hrow, Fin.ext hr, col, hcol, (spriteBit_eq_getLsbD _ hcol).trans hbit, Fin.ext hc⟩

theorem State.sprite_pixel_iff (hn : n < 16) : (s.sprite x y n).1.pixel r c = true ↔
    (s.fb.pixel r c = true ∧ ¬ ∃ row col, Lands s x y n row col r c) ∨
      (s.fb.pixel r c = false ∧ ∃ row col, Lands s x y n row col r c) := by
  rw [← rowsCover_iff_lands]
  exact (drawRows_spec _ _ _ n (by omega) _).1 r c

theorem State.sprite_collision_iff (hn : n < 16) : (s.sprite x y n).2 = true ↔
    ∃ r c row col, Lands s x y n row col r c ∧ s.fb.pixel r c = true := by
  rw [State.sprite, (drawRows_spec _ _ _ n (by omega) _).2]
  simp [rowsCover_iff_lands]

/-! ### DXYN (R211) -/

theorem exec_drw_next (h : n = 0 ∨ s.i.toNat + n - 1 ≤ 0xFFF) : ∃ t, exec (.drw x y n) s = .next t :=
  ⟨_, accessing_next (base := s.base) (h.imp_right Nat.sub_le_iff_le_add.1)⟩

section
variable {t : State} (hn : n < 16) (h : exec (.drw x y n) s = .next t)
include hn h

theorem pixel_of_exec_drw_covered (hl : ∃ row col, Lands s x y n row col r c) :
    t.fb.pixel r c = !s.fb.pixel r c := by
  obtain ⟨rfl, -⟩ := exec_inv h
  refine Bool.eq_iff_iff.2 ((State.sprite_pixel_iff hn).trans ?_)
  simp [hl]

theorem pixel_of_exec_drw_uncovered (hl : ¬ ∃ row col, Lands s x y n row col r c) :
    t.fb.pixel r c = s.fb.pixel r c := by
  obtain ⟨rfl, -⟩ := exec_inv h
  refine Bool.eq_iff_iff.2 ((State.sprite_pixel_iff hn).trans ?_)
  simp [hl]

theorem flag_of_exec_drw_collision (hc : ∃ r c row col, Lands s x y n row col r c ∧ s.fb.pixel r c = true) :
    t.readV 15 = 1 := by
  obtain ⟨rfl, -⟩ := exec_inv h
  refine (State.readV_writeV_same _ flagReg _).trans ?_
  rw [(State.sprite_collision_iff hn).2 hc]
  rfl

theorem flag_of_exec_drw_no_collision (hc : ¬ ∃ r c row col, Lands s x y n row col r c ∧ s.fb.pixel r c = true) :
    t.readV 15 = 0 := by
  obtain ⟨rfl, -⟩ := exec_inv h
  refine (State.readV_writeV_same _ flagReg _).trans ?_
  rw [Bool.eq_false_iff.2 (mt (State.sprite_collision_iff hn).1 hc)]
  rfl

end

theorem drawFlag_of_exec_drw {t : State} (h : exec (.drw x y n) s = .next t) : t.drawFlag = true := by
  obtain ⟨rfl, -⟩ := exec_inv h
  rfl

end

/-- Settles O35: the picture and VF as the sprite's set bits leave them, and the fault of an access of n bytes. -/
theorem drawFlipsCoveredPixels : Obligations.DrawFlipsCoveredPixels := by
  refine ⟨fun x y n s hn hacc => ?drawn, fun x y n s hpos hpast => ?fault⟩
  case drawn =>
    obtain ⟨t, h⟩ := exec_drw_next hacc
    exact ⟨t, h, fun _ _ => pixel_of_exec_drw_covered hn h, fun _ _ => pixel_of_exec_drw_uncovered hn h,
      flag_of_exec_drw_collision hn h, flag_of_exec_drw_no_collision hn h, drawFlag_of_exec_drw h, exec_sameBut h⟩
  case fault =>
    obtain ⟨m, rfl⟩ := Nat.exists_eq_succ_of_ne_zero (Nat.ne_of_gt hpos)
    exact exec_fault_of_access_past rfl hpast

/-! ### Drawing twice (Q10; log 29) -/

/-- Where a sprite lands depends on I, the two registers and RAM, and a draw writes none of them unless x or y is F. -/
theorem lands_of_exec_drw_iff {x y : Reg} {n : Nat} {s t : State} (hx : x ≠ 15) (hy : y ≠ 15)
    (h : exec (.drw x y n) s = .next t) (row col : Nat) (r : Fin 32) (c : Fin 64) :
    Lands t x y n row col r c ↔ Lands s x y n row col r c := by
  have hframe := exec_sameBut h
  have hi : t.i = s.i := hframe .i (by simp [instrWrites])
  have hvx : t.readV x = s.readV x := hframe (.v x) (by simp [instrWrites, hx])
  have hvy : t.readV y = s.readV y := hframe (.v y) (by simp [instrWrites, hy])
  have hbyte : ∀ a, t.readByte a = s.readByte a := fun a => hframe (.byte a) (by simp [instrWrites])
  simp only [Lands, hi, hvx, hvy, hbyte]

/-- Settles O36: both draws flip the same pixels, so every pixel is flipped twice or never; and on an empty screen the
first draw lights a pixel that the second one finds set. -/
theorem drawingTwiceRestoresScreen : Obligations.DrawingTwiceRestoresScreen := by
  intro x y n s t u hn hx hy hst htu
  have hlands := lands_of_exec_drw_iff hx hy hst
  refine ⟨Screen.ext_pixel fun r c => ?restored, ?flag⟩
  case restored =>
    have hcov : (∃ row col, Lands t x y n row col r c) ↔ ∃ row col, Lands s x y n row col r c := by simp only [hlands]
    by_cases hl : ∃ row col, Lands s x y n row col r c
    · calc u.fb.pixel r c
        _ = !t.fb.pixel r c := pixel_of_exec_drw_covered hn htu (hcov.2 hl)
        _ = !!s.fb.pixel r c := congrArg _ (pixel_of_exec_drw_covered hn hst hl)
        _ = s.fb.pixel r c := Bool.not_not _
    · calc u.fb.pixel r c
        _ = t.fb.pixel r c := pixel_of_exec_drw_uncovered hn htu (mt hcov.1 hl)
        _ = s.fb.pixel r c := pixel_of_exec_drw_uncovered hn hst hl
  case flag =>
    rintro hempty ⟨r, c, row, col, hl⟩
    have hlit : t.fb.pixel r c = true := by
      rw [pixel_of_exec_drw_covered hn hst ⟨row, col, hl⟩, hempty r c]
      rfl
    exact flag_of_exec_drw_collision hn htu ⟨r, c, row, col, (hlands row col r c).2 hl, hlit⟩

end Sys2Proof.Machine
end

section
/-! SUPPORT. The keypad and the timers: which key a register names, what FX0A and a key event write, and that a press
answers a wait (45_keypad_timers.md R220 to R225, 46_host_interface.md R243; log 25). -/

namespace Sys2Proof.Machine

/-! ### Skips on a key (R220, R221) -/

/-- Only the low four bits of Vx select the key. -/
theorem State.keyDown_eq {s : State} {x : Reg} {k : Key} (h : (s.readV x).toNat % 16 = k.val) :
    s.keyDown x = s.keys[k] := by
  obtain rfl : lowNibble (s.readV x) = k := Fin.ext h
  rfl

/-- Settles O37: both are one `skipIf`, on the key that Vx names or its complement. -/
theorem keySkipsTestOneKey : Obligations.KeySkipsTestOneKey := by
  intro x k s hk
  rw [← State.keyDown_eq hk]
  exact ⟨exec_skip rfl Iff.rfl, exec_skip rfl (iff_of_eq (Bool.not_eq_true' _))⟩

/-! ### The timers (R222, R224, R225) -/

/-- Settles O38: each is one write, of Vx, DT or ST. -/
theorem timerInstructionsMoveBytes : Obligations.TimerInstructionsMoveBytes :=
  fun x s => ⟨⟨s.writeV x s.dt, rfl, s.readV_writeV_same x _, sameBut_writeV s x _⟩,
    ⟨s.setDt (s.readV x), rfl, s.setDt_dt _, sameBut_setDt s _⟩,
    ⟨s.setSt (s.readV x), rfl, s.setSt_st _, sameBut_setSt s _⟩⟩

/-! ### The wait for a key (R223) -/

/-- Settles O39: FX0A is one `awaitKey`, which reads no key. -/
theorem waitForKeySetsWaiting : Obligations.WaitForKeySetsWaiting :=
  fun x s => ⟨s.awaitKey x, rfl, s.awaitKey_waiting x, s.awaitKey_keyReg x, sameBut_awaitKey s x⟩

/-! ### Key events (R243) -/

/-- The bit of key `k` as a key event sets or clears it (R243, R244). -/
def State.setKey (s : State) (k : Key) (b : Bool) : State := { s with keys := s.keys.set k b }

theorem State.setKey_keys_same (s : State) (k : Key) (b : Bool) : (s.setKey k b).keys[k] = b :=
  Vector.getElem_set_self k.isLt

theorem State.setKey_waiting (s : State) (k : Key) (b : Bool) : (s.setKey k b).waiting = s.waiting := rfl

theorem sameBut_setKey (s : State) (k : Key) (b : Bool) : SameBut (fun p => p = .key k) s (s.setKey k b) := by
  intro p hp
  cases p with
  | key j =>
    have hj : k.val ≠ j.val := fun e => hp (congrArg Part.key (Fin.ext e.symm))
    exact Vector.getElem_set_ne k.isLt j.isLt hj
  | _ => rfl

theorem sameBut_endWait (s : State) : SameBut (fun p => p = .waiting) s { s with waiting := false } := by
  intro p hp
  cases p with
  | waiting => exact absurd rfl hp
  | _ => rfl

/-- A press of a key 0 to 15 sets its bit and then tries the latch, whatever the bit was (log 25). -/
theorem hostKeyPress_val (k : Key) (s : State) :
    hostKeyPress k.val s = .next (latchKey k (s.setKey k true)) := by
  rw [hostKeyPress, keyOf_val]
  rfl

section
variable {s : State} (k : Key)

theorem latchKey_keys : (latchKey k s).keys = s.keys := by
  unfold latchKey
  split <;> rfl

variable (hw : s.waiting = true)
include hw

theorem latchKey_of_waiting :
    latchKey k s = { s.writeV s.keyReg (BitVec.ofNat 8 k.val) with waiting := false } := if_pos hw

theorem readV_latchKey : ((latchKey k s).readV s.keyReg).toNat = k.val := by
  have hread : (latchKey k s).readV s.keyReg = BitVec.ofNat 8 k.val := by
    rw [latchKey_of_waiting k hw]
    exact s.readV_writeV_same s.keyReg _
  rw [hread]
  exact (BitVec.toNat_ofNat k.val 8).trans (Nat.mod_eq_of_lt (by omega))

theorem sameBut_latchKey : SameBut (fun p => p = .v s.keyReg ∨ p = .waiting) s (latchKey k s) := by
  rw [latchKey_of_waiting k hw]
  exact ((sameBut_writeV s s.keyReg _).mono fun _ => .inl).trans ((sameBut_endWait _).mono fun _ => .inr)

/-- What a press of a key 0 to 15 does while waiting, whether or not the key was already down (log 25). -/
theorem keyPress_of_waiting : ∃ t, transact (.keyPress k.val) s = .next t ∧ t.keys[k] = true ∧
    (t.readV s.keyReg).toNat = k.val ∧ t.waiting = false ∧
    SameBut (fun p => p = .key k ∨ p = .v s.keyReg ∨ p = .waiting) s t := by
  have hwk : (s.setKey k true).waiting = true := (s.setKey_waiting k true).trans hw
  refine ⟨latchKey k (s.setKey k true), hostKeyPress_val k s, ?key, readV_latchKey k hwk, ?ended, ?frame⟩
  case key =>
    rw [latchKey_keys]
    exact s.setKey_keys_same k true
  case ended => rw [latchKey_of_waiting k hwk]
  case frame =>
    exact ((sameBut_setKey s k true).mono fun _ => .inl).trans ((sameBut_latchKey k hwk).mono fun _ => .inr)

end

/-- Settles O40: FX0A leaves a state that waits for Vx, and a press answers it; PC is in neither frame. -/
theorem keyPressCompletesWait : Obligations.KeyPressCompletesWait := by
  intro x k s t h
  obtain ⟨rfl, -⟩ := exec_inv h
  obtain ⟨u, hu, hkey, hvx, hended, hframe⟩ := keyPress_of_waiting k (s.awaitKey_waiting x)
  refine ⟨u, hu, hvx, hended, hkey, ((sameBut_awaitKey s x).mono ?_).trans (hframe.mono ?_)⟩
  · rintro p (rfl | rfl) <;> simp
  · rintro p (rfl | rfl | rfl) <;> simp

end Sys2Proof.Machine
end

section
/-! SUPPORT. The host transactions (46_host_interface.md R240 to R247): what each answers, what it leaves unchanged, and
that each keeps the invariant, so that every reachable state meets it (log 4, log 10, log 16). -/

namespace Sys2Proof.Machine

/-! ### What `LoadROM` answers (R242; log 19) -/

section
variable {bytes : List Byte} (s : State)

theorem hostLoadRom_of_fits (h : bytes.length ≤ 3584) :
    hostLoadRom bytes s = .next (s.storeBytes Config.programStart bytes) := if_pos ((romFits_iff bytes).2 h)

theorem hostLoadRom_of_too_long (h : 3584 < bytes.length) : hostLoadRom bytes s = .next s :=
  if_neg (mt (romFits_iff bytes).1 h.not_ge)

theorem loadRomReport_of_fits (h : bytes.length ≤ 3584) : transactReport (.loadRom bytes) s = [] :=
  if_pos ((romFits_iff bytes).2 h)

theorem loadRomReport_of_too_long (h : 3584 < bytes.length) :
    transactReport (.loadRom bytes) s = [.outOfROMSpace bytes.length] := if_neg (mt (romFits_iff bytes).1 h.not_ge)

/-- The k-th of a run of stored bytes stands at the k-th address. -/
theorem State.readByte_storeBytes_getElem (base : Nat) {k : Nat} (h : k < bytes.length) :
    (s.storeBytes base bytes).readByte (base + k) = bytes[k] := by
  rw [s.readByte_storeBytes, if_pos (by omega), Nat.add_sub_cancel_left, List.getD_eq_getElem _ _ h]

end

/-! ### What a key event answers (R243, R244; log 25) -/

/-- An integer names a key, or it is out of range. -/
theorem names_key_or_out_of_range (n : Int) : (∃ k : Key, n = k.val) ∨ n < 0 ∨ 15 < n := by
  by_cases h : 0 ≤ n ∧ n ≤ 15
  · exact .inl ⟨⟨n.toNat, by omega⟩, (Int.toNat_of_nonneg h.1).symm⟩
  · exact .inr (by omega)

theorem hostKeyRelease_val (k : Key) (s : State) : hostKeyRelease k.val s = .next (s.setKey k false) := by
  rw [hostKeyRelease, keyOf_val]
  rfl

/-- `KeyRelease` of an integer that names no key changes nothing. -/
theorem hostKeyRelease_out_of_range {n : Int} (s : State) (h : n < 0 ∨ 15 < n) : hostKeyRelease n s = .next s := by
  rw [hostKeyRelease, keyOf_none h]

theorem latchKey_of_not_waiting {s : State} (k : Key) (hw : s.waiting = false) : latchKey k s = s :=
  if_neg (Bool.eq_false_iff.1 hw)

/-- With no wait on, a press of a key 0 to 15 sets its bit only. -/
theorem hostKeyPress_of_not_waiting {s : State} (k : Key) (hw : s.waiting = false) :
    hostKeyPress k.val s = .next (s.setKey k true) := by
  rw [hostKeyPress_val, latchKey_of_not_waiting k ((s.setKey_waiting k true).trans hw)]

/-! ### What the controls answer (R245, R246, R247; log 10) -/

theorem hostSetSpeed_of_inRange {n : Int} (s : State) (h : 1 ≤ n ∧ n ≤ 100) :
    hostSetSpeed n s = .next { s with speed := n.toNat } := if_pos ((speedInRange_iff n).2 h)

theorem hostSetSpeed_of_not_inRange {n : Int} (s : State) (h : ¬ (1 ≤ n ∧ n ≤ 100)) :
    hostSetSpeed n s = .refused (.speedOutOfRange n) := if_neg (mt (speedInRange_iff n).1 h)

theorem sameBut_setPaused (s : State) (b : Bool) : SameBut (fun p => p = .paused) s { s with paused := b } := by
  intro p hp
  cases p with
  | paused => exact absurd rfl hp
  | _ => rfl

theorem sameBut_setSpeed (s : State) (n : Nat) : SameBut (fun p => p = .speed) s { s with speed := n } := by
  intro p hp
  cases p with
  | speed => exact absurd rfl hp
  | _ => rfl

theorem sameBut_clearDrawFlag (s : State) : SameBut (fun p => p = .drawFlag) s { s with drawFlag := false } := by
  intro p hp
  cases p with
  | drawFlag => exact absurd rfl hp
  | _ => rfl

/-! ### Every transaction keeps the invariant -/

/-- The reset state meets the invariant, whatever the count of draws (70_reset_and_hazards.md R300; log 27). -/
theorem inv_reset_withDraws (n : Nat) : Inv { State.reset with draws := n } where
  mem_wf := Memory.wf_nil
  speed_range := by simp [State.reset, Config.defaultSpeed, Config.minSpeed, Config.maxSpeed]
  waiting_op := nofun

section
variable {s t : State} (hinv : Inv s)
include hinv

/-- The invariant speaks of five elements only, so what leaves these alone keeps it. -/
theorem Inv.of_eq (hmem : t.mem = s.mem) (hspeed : t.speed = s.speed) (hw : t.waiting = s.waiting)
    (hreg : t.keyReg = s.keyReg) (hop : t.lastOp = s.lastOp) : Inv t where
  mem_wf := hmem ▸ hinv.mem_wf
  speed_range := hspeed ▸ hinv.speed_range
  waiting_op h := by
    rw [hop, hreg]
    exact hinv.waiting_op (hw ▸ h)

theorem Inv.setKey (k : Key) (b : Bool) : Inv (s.setKey k b) := hinv.of_eq rfl rfl rfl rfl rfl

theorem Inv.timerTick : Inv (timerTick s) := hinv.of_eq rfl rfl rfl rfl rfl

/-- The latch keeps the invariant: it ends the wait, or does nothing. -/
theorem Inv.latchKey (k : Key) : Inv (latchKey k s) := by
  cases hw : s.waiting with
  | true =>
    rw [latchKey_of_waiting k hw]
    exact ⟨hinv.mem_wf, hinv.speed_range, nofun⟩
  | false =>
    rw [latchKey_of_not_waiting k hw]
    exact hinv

/-- An image that fits is stored inside RAM, which keeps the canonical form. -/
theorem Inv.hostLoadRom {bytes : List Byte} (h : hostLoadRom bytes s = .next t) : Inv t := by
  rcases le_or_gt bytes.length 3584 with hlen | hlen
  · cases (hostLoadRom_of_fits s hlen).symm.trans h
    have hin : Config.programStart + bytes.length ≤ Config.ramSize := by
      simp only [Config.programStart, Config.ramSize]
      omega
    exact ⟨Memory.writeBytes_wf hinv.mem_wf hin, hinv.speed_range, hinv.waiting_op⟩
  · cases (hostLoadRom_of_too_long s hlen).symm.trans h
    exact hinv

/-- A cycle is nothing, or steps and a tick; each keeps the invariant. -/
theorem Inv.hostCycle (h : hostCycle s = .next t) : Inv t := by
  rcases hostCycle_inv h with ⟨-, rfl⟩ | ⟨-, u, hbatch, rfl⟩
  · exact hinv
  · exact (batch_keeps (fun _ _ => Inv.step) s.speed hinv hbatch).timerTick

theorem Inv.hostKeyPress {n : Int} (h : hostKeyPress n s = .next t) : Inv t := by
  rcases names_key_or_out_of_range n with ⟨k, rfl⟩ | hout
  · cases (hostKeyPress_val k s).symm.trans h
    exact (hinv.setKey k true).latchKey k
  · cases (hostKeyPress_out_of_range s hout).symm.trans h
    exact hinv

theorem Inv.hostKeyRelease {n : Int} (h : hostKeyRelease n s = .next t) : Inv t := by
  rcases names_key_or_out_of_range n with ⟨k, rfl⟩ | hout
  · cases (hostKeyRelease_val k s).symm.trans h
    exact hinv.setKey k false
  · cases (hostKeyRelease_out_of_range s hout).symm.trans h
    exact hinv

/-- A speed that is not refused is in range. -/
theorem Inv.hostSetSpeed {n : Int} (h : hostSetSpeed n s = .next t) : Inv t := by
  by_cases hn : 1 ≤ n ∧ n ≤ 100
  · cases (hostSetSpeed_of_inRange s hn).symm.trans h
    have hrange : Config.minSpeed ≤ n.toNat ∧ n.toNat ≤ Config.maxSpeed := by
      simp only [Config.minSpeed, Config.maxSpeed]
      omega
    exact ⟨hinv.mem_wf, hrange, hinv.waiting_op⟩
  · cases (hostSetSpeed_of_not_inRange s hn).symm.trans h

theorem Inv.transact {a : Transaction} (h : transact a s = .next t) : Inv t := by
  cases a with
  | reset => cases h; exact inv_reset_withDraws s.draws
  | loadRom _ => exact hinv.hostLoadRom h
  | cycle => exact hinv.hostCycle h
  | step => exact hinv.step h
  | keyPress _ => exact hinv.hostKeyPress h
  | keyRelease _ => exact hinv.hostKeyRelease h
  | setSpeed _ => exact hinv.hostSetSpeed h
  | setPaused _ | clearDrawFlag => cases h; exact hinv.of_eq rfl rfl rfl rfl rfl

end

/-- Settles O51: by cases on the transaction. -/
theorem transactionsPreserveMachineForm : Obligations.TransactionsPreserveMachineForm :=
  fun _ _ _ hinv => hinv.transact

/-- Settles O52: the reset state meets the invariant and every transaction keeps it, so a run of them does. -/
theorem reachableStatesHaveMachineForm : Obligations.ReachableStatesHaveMachineForm :=
  fun _ ⟨ts, hrun⟩ => transactAll_keeps transactionsPreserveMachineForm ts (inv_reset_withDraws 0) hrun

/-! ### The effects of the transactions -/

/-- Settles O46: an image that fits is one run of stored bytes, and one that does not stores nothing. -/
theorem loadRomStoresImageOrRejects : Obligations.LoadRomStoresImageOrRejects :=
  ⟨fun bytes s hfits => ⟨s.storeBytes Config.programStart bytes, hostLoadRom_of_fits s hfits,
      fun _ => s.readByte_storeBytes_getElem Config.programStart, sameBut_storeBytes s Config.programStart bytes,
      loadRomReport_of_fits s hfits⟩,
    fun _ s hlong => ⟨hostLoadRom_of_too_long s hlong, loadRomReport_of_too_long s hlong⟩⟩

/-- Settles O42: a press with no wait on, a press that answers a wait, a release, and integers that name no key. -/
theorem keyEventsSetAndClearKeys : Obligations.KeyEventsSetAndClearKeys :=
  ⟨fun k s hw => ⟨s.setKey k true, hostKeyPress_of_not_waiting k hw, s.setKey_keys_same k true,
      sameBut_setKey s k true⟩,
    fun k _ hw => keyPress_of_waiting k hw,
    fun k s => ⟨s.setKey k false, hostKeyRelease_val k s, s.setKey_keys_same k false, sameBut_setKey s k false⟩,
    fun _ s hout => ⟨hostKeyPress_out_of_range s hout, hostKeyRelease_out_of_range s hout⟩⟩

/-- Settles O47: each control is one write, and a speed out of range is refused. -/
theorem hostControlsWriteOneElement : Obligations.HostControlsWriteOneElement := by
  refine ⟨fun b s => ⟨_, rfl, rfl, sameBut_setPaused s b⟩, fun n s hlo hhi => ?speed, fun n s hout => ?refused,
    fun s => ⟨_, rfl, rfl, sameBut_clearDrawFlag s⟩⟩
  case speed =>
    exact ⟨_, hostSetSpeed_of_inRange s ⟨hlo, hhi⟩, Int.toNat_of_nonneg (by omega), sameBut_setSpeed s n.toNat⟩
  case refused => exact hostSetSpeed_of_not_inRange s (by omega)

end Sys2Proof.Machine
end

section
/-! SUPPORT. How a step ends and what it reports: the range fault is all that stops an instruction, a report and an
outcome go together, and when a step is clean (60_exceptions.md R260 to R268; log 1, 6, 12, 14). -/

namespace Sys2Proof.Machine

/-! ### What an instruction can answer (20_memory.md R68, R266) -/

/-- Everything an instruction can answer: its effect when its access is empty or ends inside RAM, or the fault with the
access's highest address when it does not. -/
theorem exec_cases (i : Instr) (s : State) :
    (exec i s = .next (instrEffect i s) ∧ (instrAccess i = 0 ∨ s.base + instrAccess i ≤ Config.ramSize)) ∨
    (exec i s = .fault (.addressOutOfRange (s.base + instrAccess i - 1)) ∧
      0 < instrAccess i ∧ Config.ramSize < s.base + instrAccess i) := by
  rw [exec_eq_accessing]
  exact accessing_cases s.base (instrAccess i) (instrEffect i s)

/-- Settles O55: the access is all that can stop an instruction, and only four instructions make one. -/
theorem onlyRangeFaultsStopInstructions : Obligations.OnlyRangeFaultsStopInstructions := by
  intro i s
  rcases exec_cases i s with ⟨hnext, -⟩ | ⟨hfault, hpos, htop⟩
  · exact .inl ⟨_, hnext⟩
  · refine .inr ⟨_, hfault, Nat.le_sub_one_of_lt htop, ?_⟩
    cases i with
    | drw x y n => exact .inl ⟨x, y, n, rfl, hpos, rfl⟩
    | ldB x => exact .inr (.inl ⟨x, rfl, rfl⟩)
    | storeRegs x => exact .inr (.inr (.inl ⟨x, rfl, rfl⟩))
    | loadRegs x => exact .inr (.inr (.inr ⟨x, rfl, rfl⟩))
    | _ => cases hpos

/-! ### What a step reports (R127, R261, R268) -/

theorem execReport_of_fault {i : Instr} {s : State} {f : Fault} (h : exec i s = .fault f) :
    execReport i s = some (faultDiagnostic f) := by
  simp [execReport, h]

/-- An instruction's own diagnostic is one of the two stack faults, each at its end of the stack (R262, R263). -/
theorem instrDiagnostic_cases (i : Instr) (s : State) : instrDiagnostic i s = none ∨
    (instrDiagnostic i s = some .stackUnderflow ∧ s.sp.val = 0) ∨
    (instrDiagnostic i s = some .stackOverflow ∧ s.sp.val = 16) := by
  cases i with
  | ret => by_cases h : s.sp.val = 0 <;> simp [instrDiagnostic, retDiagnostic_eq, h]
  | call _ => by_cases h : s.sp.val = 16 <;> simp [instrDiagnostic, callDiagnostic_eq, h]
  | _ => exact .inl rfl

section
variable {s : State} (hw : s.waiting = false) (hpc : s.pc ≠ 0xFFF#12)
include hw hpc

theorem stepReport_unknown (hd : decodeWord s.wordAtPc = none) :
    stepReport s = some (.unknownOpcode s.wordAtPc) := by
  simp [stepReport, hw, fetch_ok hpc, hd]

theorem stepReport_exec {i : Instr} (hd : decodeWord s.wordAtPc = some i) : stepReport s = execReport i s.fetched := by
  simp [stepReport, hw, fetch_ok hpc, hd]

end

/-- Settles O12: the step answers the fetched state and reports the word. -/
theorem unknownWordOnlyReports : Obligations.UnknownWordOnlyReports := by
  rintro s _ hw hpc rfl hd
  exact ⟨s.fetched, step_unknown hw hpc hd, s.fetched_pc_toNat, rfl, sameBut_fetched s, stepReport_unknown hw hpc hd⟩

/-- How a step ends and what it then reports: a range fault, reported as itself; or a next state, with no range fault
reported and a stack fault only at its end of the stack. -/
theorem step_stepReport_cases (s : State) :
    (∃ a, step s = .fault (.addressOutOfRange a) ∧ stepReport s = some (.addressOutOfRange a)) ∨
    (∃ t, step s = .next t ∧ (∀ a, stepReport s ≠ some (.addressOutOfRange a)) ∧
      (stepReport s = some .stackUnderflow → s.sp.val = 0) ∧ (stepReport s = some .stackOverflow → s.sp.val = 16)) := by
  rcases step_cases s with ⟨hw, hs⟩ | ⟨hw, hpc, hs⟩ | ⟨hw, hpc, hd, hs⟩ | ⟨i, hw, hpc, hd, hs⟩
  · exact .inr ⟨_, hs, by simp [stepReport_waiting hw]⟩
  · exact .inl ⟨_, hs, stepReport_at_top hw hpc⟩
  · exact .inr ⟨_, hs, by simp [stepReport_unknown hw hpc hd]⟩
  · have hreport := stepReport_exec hw hpc hd
    rcases exec_cases i s.fetched with ⟨hexec, -⟩ | ⟨hexec, -⟩
    · rw [execReport_of_next hexec] at hreport
      refine .inr ⟨_, hs.trans hexec, ?_⟩
      rcases instrDiagnostic_cases i s.fetched with hdiag | ⟨hdiag, hsp⟩ | ⟨hdiag, hsp⟩
      · simp [hreport, hdiag]
      · simpa [hreport, hdiag] using hsp
      · simpa [hreport, hdiag] using hsp
    · exact .inl ⟨_, hs.trans hexec, hreport.trans (execReport_of_fault hexec)⟩

/-- Settles O14: a step ends in a reported range fault or in a next state. -/
theorem stepReportsMatchOutcomes : Obligations.StepReportsMatchOutcomes := by
  intro s
  rcases step_stepReport_cases s with ⟨a, hs, hreport⟩ | ⟨t, hs, hrange, hunder, hover⟩
  · simp [hs, hreport]
  · exact ⟨by simp [hs], fun a => by simp [hs, hrange a], fun h => ⟨hunder h, t, hs⟩, fun h => ⟨hover h, t, hs⟩⟩

/-! ### Clean steps and clean runs (R260, R266, R268) -/

section
variable {i : Instr} {s : State}

theorem instrDiagnostic_eq_none_iff : instrDiagnostic i s = none ↔
    (i = .ret → s.sp.val ≠ 0) ∧ (∀ nnn, i = .call nnn → s.sp.val ≠ 16) := by
  cases i with
  | ret => simp [instrDiagnostic, retDiagnostic_eq]
  | call _ => simp [instrDiagnostic, callDiagnostic_eq]
  | _ => simp [instrDiagnostic]

/-- That an access is empty or ends inside RAM, said of the four instructions that make one. -/
theorem access_within_iff : instrAccess i = 0 ∨ s.base + instrAccess i ≤ Config.ramSize ↔
    (∀ x y n, i = .drw x y n → n = 0 ∨ s.i.toNat + n - 1 ≤ 0xFFF) ∧
    (∀ x, i = .ldB x → s.i.toNat + 2 ≤ 0xFFF) ∧
    (∀ x : Reg, i = .storeRegs x ∨ i = .loadRegs x → s.i.toNat + x.val ≤ 0xFFF) := by
  cases i with
  | drw _ _ _ | ldB _ => simp [instrAccess, State.base, Config.ramSize]
  | storeRegs x | loadRegs x =>
    have hlast : s.i.toNat + (x.val + 1) ≤ 4096 ↔ s.i.toNat + x.val ≤ 4095 := Nat.succ_le_succ_iff
    simpa [instrAccess, State.base, Config.ramSize] using hlast
  | _ => simp [instrAccess]

/-- An instruction has a next state and reports nothing exactly when it has no diagnostic of its own and its access
passes the check. -/
theorem exec_clean_iff : ((∃ t, exec i s = .next t) ∧ execReport i s = none) ↔
    instrDiagnostic i s = none ∧ (instrAccess i = 0 ∨ s.base + instrAccess i ≤ Config.ramSize) := by
  rcases exec_cases i s with ⟨hexec, hacc⟩ | ⟨hexec, hpos, htop⟩
  · simp [execReport_of_next hexec, hexec, hacc]
  · simp [hexec, hpos.ne', htop]

theorem cleanStep_of_waiting (hw : s.waiting = true) : CleanStep s := ⟨⟨s, step_waiting hw⟩, stepReport_waiting hw⟩

/-- A clean step that does not wait executes an instruction that ends well and reports nothing. -/
theorem cleanStep_iff_exec (hw : s.waiting = false) : CleanStep s ↔ s.pc ≠ 0xFFF#12 ∧ ∃ i,
    decodeWord s.wordAtPc = some i ∧ (∃ t, exec i s.fetched = .next t) ∧ execReport i s.fetched = none := by
  rcases step_cases s with ⟨hwait, -⟩ | ⟨-, hpc, hs⟩ | ⟨-, hpc, hd, -⟩ | ⟨i, -, hpc, hd, hs⟩
  · simp [hw] at hwait
  · simp [CleanStep, hs, hpc]
  · simp [CleanStep, stepReport_unknown hw hpc hd, hd]
  · simp [CleanStep, stepReport_exec hw hpc hd, hs, hd, hpc]

end

/-- A clean run is a batch that ends in a next state and reports nothing, by induction on its length. -/
theorem batch_of_cleanRun (n : Nat) {s : State} (h : CleanRun n s) : ∃ t, batch n s = .next t ∧ batchReport n s = [] := by
  induction n generalizing s with
  | zero => exact ⟨s, rfl, rfl⟩
  | succ n ih =>
    obtain ⟨⟨⟨u, hs⟩, hreport⟩, hrest⟩ := h
    obtain ⟨t, hrun, hnone⟩ := ih (hrest u hs)
    exact ⟨t, (batch_succ hs).trans hrun, by simp [batchReport, hs, hreport, hnone]⟩

/-- Settles O53: a step that does not wait is clean when its instruction is, and that is a condition on the instruction's
own diagnostic and one on its access; a clean run is a batch. -/
theorem cleanStepsMeetTheConditions : Obligations.CleanStepsMeetTheConditions := by
  refine ⟨fun s => ?step, fun n s h => batch_eq_run n s ▸ batch_of_cleanRun n h⟩
  cases hw : s.waiting with
  | true => simp [cleanStep_of_waiting hw]
  | false =>
    simp only [cleanStep_iff_exec hw, exec_clean_iff, instrDiagnostic_eq_none_iff, access_within_iff, and_assoc,
      State.fetched_sp, State.fetched_i, s.wordAtPc_eq, Bool.false_eq_true, false_or]

end Sys2Proof.Machine
end

section
/-! SUPPORT. The reset state (70_reset_and_hazards.md): the contents of RAM that lists nothing, what `Reset` leaves in every
other element, and the invariant at reset. -/

namespace Sys2Proof.Machine

/-! ### RAM that lists nothing (R63, R300) -/

/-- A glyph is four pixels wide, so no byte of the font has a bit in its low nibble (20_memory.md R63). -/
theorem font_low_nibble : ∀ b ∈ font, b.toNat % 16 = 0 := by decide

theorem background_low_nibble {a : Nat} (h : a < font.length) : (background a).toNat % 16 = 0 := by
  have hmem : background a ∈ font := by
    rw [background, List.getD_eq_getElem _ _ h]
    exact List.getElem_mem h
  exact font_low_nibble _ hmem

theorem background_of_font_length_le {a : Nat} (h : font.length ≤ a) : background a = 0 := List.getD_eq_default _ _ h

/-! ### The elements of the reset state (R300) -/

theorem State.readV_reset (r : Reg) : State.reset.readV r = 0 := Vector.getElem_replicate r.isLt

theorem State.stack_reset (k : Fin 16) : State.reset.stack[k] = 0 := Vector.getElem_replicate k.isLt

theorem State.keys_reset (k : Key) : State.reset.keys[k] = false := Vector.getElem_replicate k.isLt

theorem State.readByte_reset (a : Nat) : State.reset.readByte a = background a := Memory.read_nil a

/-- Settles O48: `Reset` answers the reset state with the count of draws kept, and the elements of that state are read
one by one. -/
theorem resetGivesEveryElement : Obligations.ResetGivesEveryElement := by
  intro s
  refine ⟨{ State.reset with draws := s.draws }, rfl, State.readV_reset, rfl, rfl, State.stack_reset, rfl, rfl, rfl,
    Screen.pixel_blank, State.keys_reset, rfl, rfl, rfl, rfl, rfl, rfl, rfl, fun a ha => ?font, fun a ha => ?rest, rfl⟩
  case font => exact ⟨State.readByte_reset a, background_low_nibble ha⟩
  case rest => exact (State.readByte_reset a).trans (background_of_font_length_le ha)

/-- Settles O50: the count of draws at reset, 0, is one of those for which the invariant is known. -/
theorem resetStateHasMachineForm : Obligations.ResetStateHasMachineForm := inv_reset_withDraws 0

end Sys2Proof.Machine
end
